-- ==== Sys2Proof/Word.lean ====
section
/-! DEFINITION. The word types of the BPQ (00_scope.md R6, R7): bit vectors only for what the spec treats as bits. -/

namespace Sys2Proof

/-- An 8-bit value: a pixel channel, a luma, a level count, a saturation threshold, a byte lane (R6, R54). -/
abbrev Byte := BitVec 8

/-- A 16-bit value: a frame or grid dimension, a crop field, a column, RESULT.VALUE (R6, R25, R29 to R32). -/
abbrev Half := BitVec 16

/-- A 32-bit value: a register as the host sees it, a command word (R6, R10). -/
abbrev Word := BitVec 32

end Sys2Proof
end

