-- ==== Sys2Proof/Config.lean ====
section
/-! DEFINITION. What is fixed for the BPQ (00_scope.md R6) and the implementation parameter that no rule depends on. -/

namespace Sys2Proof.Config

/-- The register window is 64 bytes, and BPQ_BASE is a multiple of as much (R6, R50). -/
def windowBytes : Nat := 64

/-- BPQ_LATENCY, the time from a CMD write to its completion, which may differ per opcode and per operand (R215).
OPEN: no rule depends on it and a model represents no time, so nothing in this model reads it (log entry 9). -/
opaque bpqLatency : Word → Nat

end Sys2Proof.Config
end

