-- ==== Sys2Proof/Syntax.lean ====
section
/-! DEFINITION. The six commands of the BPQ (30_encoding.md R73), one constructor per row of the opcode table. -/

namespace Sys2Proof

/-- A command and its immediate operands (R10, R71, R72). Every field is unsigned and has the width R71 gives it, so that
every term of this type is a command some word encodes. -/
inductive Instr where
  /-- LUMA R, G, B (opcode 0x01, format RGB; R100). -/
  | luma (r g b : Byte)
  /-- SAT R, G, B (opcode 0x02, format RGB; R102). -/
  | sat (r g b : Byte)
  /-- QGREY Y, L (opcode 0x03, format GREY; R104). -/
  | qgrey (y l : Byte)
  /-- QCOLOR R, G, B (opcode 0x04, format RGB; R106). -/
  | qcolor (r g b : Byte)
  /-- CROP (opcode 0x05, format NONE; R144). -/
  | crop
  /-- MIRROR COL (opcode 0x06, format COL; R148). -/
  | mirror (col : Half)
  deriving DecidableEq, Repr

end Sys2Proof
end

