-- ==== Sys2Proof/WellFormed.lean ====
section
/-! DEFINITION. Which command words are well formed: the mask and match rows of 30_encoding.md R73.

The operand widths of R71 are the types of the fields of Instr, so no term of Instr is ill formed. The checks that are left
are those on a 32-bit command word: a legal opcode and no reserved bit set (R74). -/

namespace Sys2Proof

/-- One row of the opcode map (R73): a word w selects the row when w AND mask = pattern. -/
structure OpcodeRow where
  mask : Word
  pattern : Word
  deriving DecidableEq, Repr

/-- A word selects a row (R73). -/
def OpcodeRow.selects (row : OpcodeRow) (w : Word) : Bool := (w &&& row.mask) == row.pattern

/-- The six rows of R73 in the table's order: LUMA, SAT, QGREY, QCOLOR, CROP, MIRROR. -/
def opcodeRows : List OpcodeRow :=
  [ ⟨0xFF000000, 0x01000000⟩, ⟨0xFF000000, 0x02000000⟩, ⟨0xFFFF0000, 0x03000000⟩,
    ⟨0xFF000000, 0x04000000⟩, ⟨0xFFFFFFFF, 0x05000000⟩, ⟨0xFFFF0000, 0x06000000⟩ ]

/-- A command word is well formed when some row of R73 selects it: neither an illegal opcode nor a reserved-field
violation (R75). -/
def wellFormedWord (w : Word) : Bool := opcodeRows.any (fun row => row.selects w)

end Sys2Proof
end

