-- ==== Sys2Proof/Decode.lean ====
section
/-! DEFINITION. The command decoder of 30_encoding.md R76 and the encoder of R71 and R73. -/

namespace Sys2Proof

/-- The outcome of decoding a command word: exactly one of the six commands, an illegal opcode or a reserved-field
violation (R75). -/
inductive Decoded where
  | command (i : Instr)
  /-- OPCODE is 0x00 or 0x07 to 0xFF: fault cause 1 (R74). -/
  | illegalOpcode
  /-- A legal opcode with a reserved operand bit set: fault cause 2 (R74). -/
  | reservedField
  deriving DecidableEq, Repr

/-- The outcome of decoding bytes: what their word decodes to, or not exactly four bytes (R70: there is one length). A
legal access always moves four bytes (R53), so the second case never reaches the BPQ. -/
inductive DecodedBytes where
  | word (d : Decoded)
  | wrongLength
  deriving DecidableEq, Repr

/-! ## Operand assembly (R71, R72): unsigned fields read directly from their bits. -/

/-- OPCODE, w[31:24]. -/
def opcodeField (w : Word) : Byte := w.extractLsb' 24 8
/-- The whole OPERAND field, w[23:0]. -/
def operandField (w : Word) : BitVec 24 := w.extractLsb' 0 24
/-- w[23:16]: R of format RGB, reserved in formats GREY and COL. -/
def upperField (w : Word) : Byte := w.extractLsb' 16 8
/-- w[15:8]: G of format RGB, L of format GREY. -/
def middleField (w : Word) : Byte := w.extractLsb' 8 8
/-- w[7:0]: B of format RGB, Y of format GREY. -/
def lowerField (w : Word) : Byte := w.extractLsb' 0 8
/-- w[15:0]: COL of format COL. -/
def columnField (w : Word) : Half := w.extractLsb' 0 16

/-- Decode a command word, with the checks in the order of R76: opcode, then reserved bits. -/
def decodeWord (w : Word) : Decoded :=
  if opcodeField w = 0x01 then .command (.luma (upperField w) (middleField w) (lowerField w))
  else if opcodeField w = 0x02 then .command (.sat (upperField w) (middleField w) (lowerField w))
  else if opcodeField w = 0x03 then
    if upperField w = 0 then .command (.qgrey (lowerField w) (middleField w)) else .reservedField
  else if opcodeField w = 0x04 then .command (.qcolor (upperField w) (middleField w) (lowerField w))
  else if opcodeField w = 0x05 then
    if operandField w = 0 then .command .crop else .reservedField
  else if opcodeField w = 0x06 then
    if upperField w = 0 then .command (.mirror (columnField w)) else .reservedField
  else .illegalOpcode

/-- The 32-bit word that four byte lanes hold, lane 0 first (R54: lane k holds bits [8k+7:8k]). -/
def wordOfLanes (b0 b1 b2 b3 : Byte) : Word := b3 ++ b2 ++ b1 ++ b0

/-- Byte lane k of a word: bits [8k+7:8k] (R54). -/
def laneOf (w : Word) (k : Nat) : Byte := w.extractLsb' (8 * k) 8

/-- Decode the bytes of one command, lowest address first (R54, R70). Total on any list of bytes. -/
def decode : List Byte → DecodedBytes
  | [b0, b1, b2, b3] => .word (decodeWord (wordOfLanes b0 b1 b2 b3))
  | _ => .wrongLength

/-- The opcode of a command (R73). -/
def opcodeOf : Instr → Byte
  | .luma _ _ _ => 0x01
  | .sat _ _ _ => 0x02
  | .qgrey _ _ => 0x03
  | .qcolor _ _ _ => 0x04
  | .crop => 0x05
  | .mirror _ => 0x06

/-- The OPERAND field of a command, laid out as R71 says, reserved bits zero. -/
def operandOf : Instr → BitVec 24
  | .luma r g b => r ++ g ++ b
  | .sat r g b => r ++ g ++ b
  | .qgrey y l => (0 : Byte) ++ l ++ y
  | .qcolor r g b => r ++ g ++ b
  | .crop => 0
  | .mirror col => (0 : Byte) ++ col

/-- The command word of a command (R71, R73). -/
def encode (i : Instr) : Word := opcodeOf i ++ operandOf i

/-- The bytes of a command word as the host's bus carries them, lowest address first (R54). -/
def lanesOf (w : Word) : List Byte := [laneOf w 0, laneOf w 1, laneOf w 2, laneOf w 3]

/-- The bytes of a command. -/
def encodeBytes (i : Instr) : List Byte := lanesOf (encode i)

/-- What the decoder reads from an instruction whose bits are w, bit 0 the least significant bit of the one command word
(R7, R70); bits at nbits and above are zero. No command is longer than 32 bits (log entry 16). -/
def decodeTableWord (nbits w : Nat) : Option Instr :=
  if nbits ≤ 32 then
    match decode (lanesOf (BitVec.ofNat 32 (w % 2 ^ nbits))) with
    | .word (.command i) => some i
    | .word .illegalOpcode | .word .reservedField | .wrongLength => none
  else none

end Sys2Proof
end

