-- ==== Sys2Proof/Machine/State.lean ====
section
/-! DEFINITION. The state of the BPQ (10_state.md R20, R23) as plain data, the reasons a step can stop, and the state after
reset (70_reset_and_hazards.md R200). -/

namespace Sys2Proof.Machine

/-- The size n of a host access: 1, 2 or 4 bytes (R51). -/
inductive Width where
  | byte
  | half
  | word
  deriving DecidableEq, Repr

/-- The data of an access of n bytes: 8n bits (R51). -/
inductive BusData where
  | byte (v : Byte)
  | half (v : Half)
  | word (v : Word)
  deriving DecidableEq, Repr

/-- The direction of an access, its size and, for a write, its data (R51). -/
inductive Transfer where
  | read (n : Width)
  | write (d : BusData)
  deriving DecidableEq, Repr

/-- A host access: the tuple (addr, n, dir, wdata) of R51. An address is a host physical address; the spec gives it no
width. -/
structure Access where
  addr : Nat
  transfer : Transfer
  deriving DecidableEq, Repr

/-- What the host can do to the BPQ (R65, R201): present an access, assert reset, release reset. -/
inductive HostEvent where
  | access (a : Access)
  | assertReset
  | releaseReset
  deriving DecidableEq, Repr

/-- The ten registers of the register map (R23). -/
inductive Reg where
  | cmd
  | result
  | status
  | faultInfo
  | thresh
  | srcdim
  | griddim
  | aspect
  | cropxy
  | cropwh
  deriving DecidableEq, Repr

/-- The causes of a fault the BPQ records (R170). Code 0 NONE is the absence of a cause; codes 6 to 15 are never produced,
so they have no constructor. -/
inductive FaultCause where
  /-- 1: a command word whose opcode selects no operation (R74). -/
  | illegalOpcode
  /-- 2: a command word with a reserved operand bit set (R74). -/
  | reservedField
  /-- 3: CROP with a zero input (R145). -/
  | geomOperand
  /-- 4: MIRROR with COL at or above GC (R149). -/
  | mirrorRange
  /-- 5: an illegal access to the window (R55). -/
  | busAccess
  deriving DecidableEq, Repr

/-- STATUS (R26). Bits [3:2] and [31:8] are reserved and have no storage. -/
structure Status where
  /-- ERR, bit 0: a fault has been recorded since reset. -/
  err : Bool
  /-- ZCROP, bit 1: the last successful CROP gave an empty rectangle. -/
  zcrop : Bool
  /-- CAUSE, bits [7:4]: the cause of the first recorded fault, none for code 0. -/
  cause : Option FaultCause
  deriving DecidableEq, Repr

/-- The state of one BPQ. Registers hold the bits the spec defines for them and no reserved bit (log entry 11); CMD has no
storage (R24); the constant tables are definitions of Machine/Palette.lean (log entry 12). The last four fields are the
model's own (log entries 1, 2, 5 and 6). -/
structure State where
  /-- RESULT[15:0], VALUE (R25). -/
  result : Half
  /-- STATUS (R26). -/
  status : Status
  /-- FAULTINFO (R27). -/
  faultInfo : Word
  /-- THRESH[7:0], SATTHR (R28). -/
  satThr : Byte
  /-- SRCDIM: SW in [15:0], SH in [31:16] (R29). -/
  srcdim : Word
  /-- GRIDDIM: GC in [15:0], GR in [31:16] (R30). -/
  griddim : Word
  /-- ASPECT: A, UQ16.16 (R31). -/
  aspect : Word
  /-- CROPXY: X in [15:0], Y in [31:16] (R32). -/
  cropxy : Word
  /-- CROPWH: W in [15:0], H in [31:16] (R32). -/
  cropwh : Word
  /-- The platform's placement of the window: BPQ_BASE is 64 times this (R50; no step changes it). -/
  window : Nat
  /-- The host holds reset asserted (R201, R202). -/
  inReset : Bool
  /-- What the host does next, oldest first (R52, R60, R65): each step takes the head. -/
  pending : List HostEvent
  /-- The values the reads have returned, oldest first (R51, R216). -/
  answers : List BusData
  deriving DecidableEq, Repr

/-- Why a step stops the model. A fault the BPQ records (R172) is no such stop: it is a next state. -/
inductive Fault where
  /-- Raised by the bus step for an access in the window while reset is asserted, which "has no specified effect or read
  value" (R202). Safe: the model stops where hardware does something unspecified (log entry 4). -/
  | accessDuringReset
  deriving DecidableEq, Repr

/-- Why an instruction has no meaning. -/
inductive Refusal where
  /-- An arm of exec whose instruction has no meaning yet would answer this. Safe. No arm does: all six commands have
  theirs. -/
  | notModelled (mnemonic : String)
  deriving DecidableEq, Repr

/-- The state right after reset is released (R200, R203), the model's own fields at the values of log entries 1, 2, 5 and
6. -/
def State.reset : State :=
  { result := 0
    status := { err := false, zcrop := false, cause := none }
    faultInfo := 0
    satThr := 0x40
    srcdim := 0
    griddim := 0
    aspect := 0
    cropxy := 0
    cropwh := 0
    window := 0
    inReset := false
    pending := []
    answers := [] }

end Sys2Proof.Machine
end

