-- ==== Sys2Proof/Machine/Palette.lean ====
section
/-! DEFINITION. The constant tables of the BPQ (10_state.md R33 to R37) and the palette layout. No command or register
writes or exposes them (R37). -/

namespace Sys2Proof.Machine

/-- ROM_STOP, the six colour-cube stops per axis (R33). -/
def romStop : List Nat := [0x00, 0x5F, 0x87, 0xAF, 0xD7, 0xFF]

/-- ROM_T, the five cube thresholds: the least integers at or above the means of adjacent stops (R34; 90_conflicts.md C8,
C9). -/
def romT : List Nat := [48, 115, 155, 195, 235]

/-- ROM_GREY, the 26-entry grey ramp: 16, then 232 to 255, then 231 (R35). -/
def romGrey : List Nat := 16 :: ((List.range 24).map (· + 232) ++ [231])

/-- Entry k of ROM_GREY; R105 keeps k at most 25, so the 0 past the end is never read. -/
def greyEntry (k : Nat) : Nat := romGrey.getD k 0

/-- The three regions of the palette layout (R36). -/
inductive PaletteRegion where
  /-- [0,15]: the basic ANSI colours, which no command produces. -/
  | basic
  /-- [16,231]: the 6 x 6 x 6 cube, with the coordinates of the index. -/
  | cube (r g b : Nat)
  /-- [232,255]: the 24-step grey ramp, with the step of the index. -/
  | ramp (step : Nat)
  deriving DecidableEq, Repr

/-- The region of a palette index and its place in it: index = 16 + 36 r + 6 g + b in the cube (R36). -/
def paletteRegion (index : Nat) : PaletteRegion :=
  if index < 16 then .basic
  else if index < 232 then .cube ((index - 16) / 36) ((index - 16) / 6 % 6) ((index - 16) % 6)
  else .ramp (index - 232)

end Sys2Proof.Machine
end

