-- ==== Sys2Proof/Machine/Operands.lean ====
section
/-! DEFINITION. The operands a command reads from registers (30_encoding.md R72) and the two-halves register layout of
10_state.md R29, R30 and R32. -/

namespace Sys2Proof.Machine

/-- Bits [15:0] of a register. -/
def lowHalf (w : Word) : Half := w.extractLsb' 0 16

/-- Bits [31:16] of a register. -/
def highHalf (w : Word) : Half := w.extractLsb' 16 16

/-- A register from two natural numbers: the word with hi in [31:16] and lo in [15:0] (R7). -/
def packHalves (hi lo : Nat) : Word := BitVec.ofNat 16 hi ++ BitVec.ofNat 16 lo

/-- SRCDIM.SW, sourceWidth (R29, R140). -/
def srcWidth (s : State) : Nat := (lowHalf s.srcdim).toNat
/-- SRCDIM.SH, sourceHeight (R29, R140). -/
def srcHeight (s : State) : Nat := (highHalf s.srcdim).toNat
/-- GRIDDIM.GC, gridCols (R30, R140). -/
def gridCols (s : State) : Nat := (lowHalf s.griddim).toNat
/-- GRIDDIM.GR, gridRows (R30, R140). -/
def gridRows (s : State) : Nat := (highHalf s.griddim).toNat
/-- ASPECT.A, the cell aspect times 65536 (R31, R140). -/
def aspectA (s : State) : Nat := s.aspect.toNat
/-- CROPXY.X, xOffset (R32). -/
def cropX (s : State) : Nat := (lowHalf s.cropxy).toNat
/-- CROPXY.Y, yOffset (R32). -/
def cropY (s : State) : Nat := (highHalf s.cropxy).toNat
/-- CROPWH.W, cropWidth (R32). -/
def cropW (s : State) : Nat := (lowHalf s.cropwh).toNat
/-- CROPWH.H, cropHeight (R32). -/
def cropH (s : State) : Nat := (highHalf s.cropwh).toNat

end Sys2Proof.Machine
end

