-- ==== Sys2Proof/Machine/Flags.lean ====
section
/-! DEFINITION. STATUS: its layout as the host reads it (10_state.md R26), the cause codes (60_exceptions.md R170) and the
ZCROP computation (41_geometry.md R146). The BPQ has no other flag (R39). -/

namespace Sys2Proof.Machine

/-- The code of a recorded cause in STATUS.CAUSE (R170). -/
def causeCode : Option FaultCause → BitVec 4
  | none => 0
  | some .illegalOpcode => 1
  | some .reservedField => 2
  | some .geomOperand => 3
  | some .mirrorRange => 4
  | some .busAccess => 5

/-- STATUS as a read returns it (R26): CAUSE in [7:4], [3:2] and [31:8] zero, ZCROP in [1], ERR in [0]. -/
def statusWord (t : Status) : Word :=
  (0 : BitVec 24) ++ causeCode t.cause ++ (0 : BitVec 2) ++ BitVec.ofBool t.zcrop ++ BitVec.ofBool t.err

/-- ZCROP of a crop of width w and height h (R146). -/
def zcropOf (w h : Nat) : Bool := w == 0 || h == 0

end Sys2Proof.Machine
end

