-- ==== Sys2Proof/Machine/Ops.lean ====
section
/-! DEFINITION. The named operations over the registers: the register map (10_state.md R23), legality of an access
(20_memory.md R53), reading and writing a register, recording a fault (60_exceptions.md R172, the BPQ's only exception
entry; there is no return from one, R177) and reset (70_reset_and_hazards.md R200). -/

namespace Sys2Proof.Machine

/-! ## Field updates -/

/-- RESULT <- v (R25). -/
def State.setResult (s : State) (v : Half) : State := { s with result := v }

/-- STATUS.ERR <- 1, STATUS.CAUSE <- c, FAULTINFO <- info; ZCROP stays (R172). -/
def State.setFaultRecord (s : State) (c : FaultCause) (info : Word) : State :=
  { s with status := { err := true, zcrop := s.status.zcrop, cause := some c }, faultInfo := info }

/-- THRESH.SATTHR <- v (R28). -/
def State.setSatThr (s : State) (v : Byte) : State := { s with satThr := v }

/-- SRCDIM <- w (R29). -/
def State.setSrcdim (s : State) (w : Word) : State := { s with srcdim := w }

/-- GRIDDIM <- w (R30). -/
def State.setGriddim (s : State) (w : Word) : State := { s with griddim := w }

/-- ASPECT <- w (R31). -/
def State.setAspect (s : State) (w : Word) : State := { s with aspect := w }

/-- CROPXY <- xy, CROPWH <- wh, STATUS.ZCROP <- z; ERR and CAUSE stay (R144). -/
def State.setCrop (s : State) (xy wh : Word) (z : Bool) : State :=
  { s with cropxy := xy, cropwh := wh, status := { err := s.status.err, zcrop := z, cause := s.status.cause } }

/-- The host's next event is taken: what is left to do is rest. -/
def State.setPending (s : State) (rest : List HostEvent) : State := { s with pending := rest }

/-- The host drives the reset line (R201). -/
def State.setInReset (s : State) (b : Bool) : State := { s with inReset := b }

/-- A read returns d to the host (R51). -/
def State.answer (s : State) (d : BusData) : State := { s with answers := s.answers ++ [d] }

/-- Every register takes its reset value, whatever it held (R200). The model's own fields stay: reset changes neither the
placement of the window, nor what the host does next, nor what it has read. -/
def State.resetRegisters (s : State) : State :=
  { State.reset with window := s.window, inReset := s.inReset, pending := s.pending, answers := s.answers }

/-! ## The register window -/

/-- BPQ_BASE, a multiple of 64 (R50). -/
def State.base (s : State) : Nat := Config.windowBytes * s.window

/-- The offset of an address that lies in the window; none for an address outside it, which the BPQ does not decode (R50,
R51). -/
def State.offsetOf (s : State) (addr : Nat) : Option Nat :=
  if s.base ≤ addr ∧ addr < s.base + Config.windowBytes then some (addr - s.base) else none

/-- The registers in the order of the register map (R23). -/
def allRegs : List Reg :=
  [.cmd, .result, .status, .faultInfo, .thresh, .srcdim, .griddim, .aspect, .cropxy, .cropwh]

/-- The offset of a register in the window (R23). -/
def regOffset : Reg → Nat
  | .cmd => 0x00
  | .result => 0x04
  | .status => 0x08
  | .faultInfo => 0x0C
  | .thresh => 0x10
  | .srcdim => 0x14
  | .griddim => 0x18
  | .aspect => 0x1C
  | .cropxy => 0x20
  | .cropwh => 0x24

/-- The register at an offset; none at an offset that names no register (R52; 0x28 to 0x3F are reserved, R23). -/
def regAt (off : Nat) : Option Reg := allRegs.find? (fun r => regOffset r == off)

/-- The access column of R23 allows a read (R or RW). -/
def readable : Reg → Bool
  | .cmd => false
  | .result | .status | .faultInfo | .thresh | .srcdim | .griddim | .aspect | .cropxy | .cropwh => true

/-- The access column of R23 allows a write (W or RW). -/
def writable : Reg → Bool
  | .cmd | .thresh | .srcdim | .griddim | .aspect => true
  | .result | .status | .faultInfo | .cropxy | .cropwh => false

/-- The size of write data. -/
def dataWidth : BusData → Width
  | .byte _ => .byte
  | .half _ => .half
  | .word _ => .word

/-- The size n of a transfer (R51). -/
def transferWidth : Transfer → Width
  | .read n => n
  | .write d => dataWidth d

/-- The direction of a transfer is a write (WR of R27). -/
def isWrite : Transfer → Bool
  | .read _ => false
  | .write _ => true

/-- The access column of R23 allows the transfer's direction. -/
def allows (r : Reg) (t : Transfer) : Bool := if isWrite t then writable r else readable r

/-- The register a legal access reaches; none when the access is illegal. Legal exactly when n = 4, off mod 4 = 0 and off
names a register that allows the direction (R53). -/
def legalReg (off : Nat) (t : Transfer) : Option Reg :=
  if transferWidth t = .word ∧ off % 4 = 0 then (regAt off).filter (fun r => allows r t) else none

/-- SIZE of an access in FAULTINFO (R27). -/
def sizeCode : Width → BitVec 2
  | .byte => 0
  | .half => 1
  | .word => 2

/-- FAULTINFO of a bus-access fault (R27): SIZE in [10:9], WR in [8], OFFSET in [5:0], the rest zero. -/
def busInfo (off : Nat) (t : Transfer) : Word :=
  (0 : BitVec 21) ++ sizeCode (transferWidth t) ++ BitVec.ofBool (isWrite t) ++ (0 : BitVec 2) ++ BitVec.ofNat 6 off

/-- What a read of a register returns (R23 to R32, R38): reserved bits read as zero. CMD holds no value; no legal access
reads it, and an illegal one is answered 0 (R55). -/
def readReg (r : Reg) (s : State) : Word :=
  match r with
  | .cmd => 0
  | .result => s.result.zeroExtend 32
  | .status => statusWord s.status
  | .faultInfo => s.faultInfo
  | .thresh => s.satThr.zeroExtend 32
  | .srcdim => s.srcdim
  | .griddim => s.griddim
  | .aspect => s.aspect
  | .cropxy => s.cropxy
  | .cropwh => s.cropwh

/-- A legal write of w to a register that stores (R38): defined bits are kept, the others discarded. A write to CMD is no
store (R24), and no legal access writes a read-only register. -/
def writeReg (r : Reg) (w : Word) (s : State) : State :=
  match r with
  | .thresh => s.setSatThr (w.extractLsb' 0 8)
  | .srcdim => s.setSrcdim w
  | .griddim => s.setGriddim w
  | .aspect => s.setAspect w
  | .cmd | .result | .status | .faultInfo | .cropxy | .cropwh => s

/-- The byte at a host address, when it is a lane of a register that can be read: byte k of the register at offset off
holds bits [8k+7:8k] (R54). The window holds no other byte (R50), and no access of one byte is legal (R53): this is how a
register lies in the address space, not an access. -/
def windowByte (s : State) (addr : Nat) : Option Byte :=
  match s.offsetOf addr with
  | none => none
  | some off =>
    match (regAt (off - off % 4)).filter readable with
    | none => none
    | some r => some (laneOf (readReg r s) (off % 4))

/-- Zero in all 8n bits: the answer of an illegal read (R55). -/
def zeroData : Width → BusData
  | .byte => .byte 0
  | .half => .half 0
  | .word => .word 0

/-- Answer a transfer that was turned away: a read returns zero, a write returns nothing (R55). -/
def answerZero (t : Transfer) (s : State) : State :=
  match t with
  | .read n => s.answer (zeroData n)
  | .write _ => s

/-! ## Faults -/

/-- raise Fault(c, info): the one exception entry of the BPQ (R172). The first fault since reset is kept. -/
def raiseFault (c : FaultCause) (info : Word) (s : State) : State :=
  if s.status.err then s else s.setFaultRecord c info

end Sys2Proof.Machine
end

