-- ==== Sys2Proof/Machine/Geometry.lean ====
section
/-! DEFINITION. The geometry unit: the crop computation on natural numbers (41_geometry.md R140 to R143) and the meanings of
CROP and MIRROR (R144, R148). -/

namespace Sys2Proof.Machine

/-- A * GC * SH, which exceeds cropRhs exactly when the effective aspect exceeds the source aspect (R141). -/
def cropLhs (a gc sh : Nat) : Nat := a * gc * sh

/-- 65536 * GR * SW (R141). -/
def cropRhs (gr sw : Nat) : Nat := 65536 * gr * sw

/-- CropSize: the width and height of the crop, the floor of the exact quotient on the shrunk axis (R142). -/
def cropSize (sw sh gc gr a : Nat) : Nat × Nat :=
  if cropRhs gr sw < cropLhs a gc sh then (sw, sw * 65536 * gr / (a * gc))
  else if cropLhs a gc sh < cropRhs gr sw then (cropLhs a gc sh / (65536 * gr), sh)
  else (sw, sh)

/-- The offset that centres a crop dimension in a source dimension; an odd pixel is left on the right or bottom (R143;
90_conflicts.md C2). -/
def centreOffset (source crop : Nat) : Nat := (source - crop) / 2

/-- Some input of CROP is zero (R145). -/
def cropDegenerate (s : State) : Bool :=
  srcWidth s == 0 || srcHeight s == 0 || gridCols s == 0 || gridRows s == 0 || aspectA s == 0

/-- The crop width and height from the registers (R140, R144). -/
def cropOf (s : State) : Nat × Nat := cropSize (srcWidth s) (srcHeight s) (gridCols s) (gridRows s) (aspectA s)

/-- The registers a successful CROP of width w and height h writes (R144). -/
def storeCrop (w h : Nat) (s : State) : State :=
  s.setCrop (packHalves (centreOffset (srcHeight s) h) (centreOffset (srcWidth s) w)) (packHalves h w) (zcropOf w h)

/-- CROP (R144): the fault's information is the command word, which has no operand bits. -/
def execCrop (s : State) : Host.Outcome State Fault Refusal :=
  if cropDegenerate s then .next (raiseFault .geomOperand (encode .crop) s)
  else .next (storeCrop (cropOf s).1 (cropOf s).2 s)

/-- MIRROR (R148): COL at or above GC faults, with the command word as information (R149). -/
def execMirror (col : Half) (s : State) : Host.Outcome State Fault Refusal :=
  if gridCols s ≤ col.toNat then .next (raiseFault .mirrorRange (encode (.mirror col)) s)
  else .next (s.setResult (BitVec.ofNat 16 (gridCols s - 1 - col.toNat)))

end Sys2Proof.Machine
end

