-- ==== Sys2Proof/Machine/Quantizer.lean ====
section
/-! DEFINITION. The quantizer unit: its pure functions on natural numbers (40_quantizer.md R101, R103, R105, R107 to R110) and
the meanings of LUMA, SAT, QGREY and QCOLOR (R100, R102, R104, R106). -/

namespace Sys2Proof.Machine

/-- Luma of a pixel, exact and truncated (R101). -/
def lumaOf (r g b : Nat) : Nat := (2126 * r + 7152 * g + 722 * b) / 10000

/-- Saturation of a pixel; 0 for pure black (R103). -/
def satOf (r g b : Nat) : Nat :=
  if max r (max g b) = 0 then 0
  else (max r (max g b) - min r (min g b)) * 255 / max r (max g b)

/-- The level count clamped to [2,26] (R105, R8). -/
def clampLevels (l : Nat) : Nat := min (max l 2) 26

/-- A luma scaled down to [0, levels - 1] (R105). -/
def scaledLuma (y levels : Nat) : Nat := y * levels / 256

/-- The grey-ramp index of a luma for a raw level count; it floors, though the source calls it round_index (R105;
90_conflicts.md C4). -/
def greyIndex (y l : Nat) : Nat :=
  if clampLevels l = 26 then scaledLuma y (clampLevels l)
  else scaledLuma y (clampLevels l) * 25 / (clampLevels l - 1)

/-- QuantizeGrey (R105). -/
def quantizeGrey (y l : Nat) : Nat := greyEntry (greyIndex y l)

/-- CubeCoord: how many thresholds a channel value reaches (R107). -/
def cubeCoord (c : Nat) : Nat := romT.countP (fun t => t ≤ c)

/-- CubeIndex (R108). -/
def cubeIndex (r g b : Nat) : Nat := 16 + 36 * cubeCoord r + 6 * cubeCoord g + cubeCoord b

/-- QuantizeColor: equality with the threshold goes grey, always with 26 levels (R109; 90_conflicts.md C5). -/
def quantizeColor (r g b thr : Nat) : Nat :=
  if satOf r g b ≤ thr then quantizeGrey (lumaOf r g b) 26 else cubeIndex r g b

/-- LUMA (R100). -/
def execLuma (r g b : Byte) (s : State) : Host.Outcome State Fault Refusal :=
  .next (s.setResult (BitVec.ofNat 16 (lumaOf r.toNat g.toNat b.toNat)))

/-- SAT (R102). -/
def execSat (r g b : Byte) (s : State) : Host.Outcome State Fault Refusal :=
  .next (s.setResult (BitVec.ofNat 16 (satOf r.toNat g.toNat b.toNat)))

/-- QGREY (R104): Y is taken as given, every L is legal. -/
def execQgrey (y l : Byte) (s : State) : Host.Outcome State Fault Refusal :=
  .next (s.setResult (BitVec.ofNat 16 (quantizeGrey y.toNat l.toNat)))

/-- QCOLOR (R106): THRESH.SATTHR is read when the command executes (R212). -/
def execQcolor (r g b : Byte) (s : State) : Host.Outcome State Fault Refusal :=
  .next (s.setResult (BitVec.ofNat 16 (quantizeColor r.toNat g.toNat b.toNat s.satThr.toNat)))

end Sys2Proof.Machine
end

