-- ==== Sys2Proof/Machine/Dispatch.lean ====
section
/-! DEFINITION. One arm per command (30_encoding.md R76). -/

namespace Sys2Proof.Machine

/-- Execute a decoded command. -/
def exec (i : Instr) (s : State) : Host.Outcome State Fault Refusal :=
  match i with
  | .luma r g b => Sys2Proof.Machine.execLuma r g b s
  | .sat r g b => Sys2Proof.Machine.execSat r g b s
  | .qgrey y l => Sys2Proof.Machine.execQgrey y l s
  | .qcolor r g b => Sys2Proof.Machine.execQcolor r g b s
  | .crop => Sys2Proof.Machine.execCrop s
  | .mirror col => Sys2Proof.Machine.execMirror col s

end Sys2Proof.Machine
end

