-- ==== Sys2Proof/Machine/Bus.lean ====
section
/-! DEFINITION. What one host event does: the access step of 20_memory.md R52, the dispatch of a command word of
30_encoding.md R76, and the reset line (70_reset_and_hazards.md R200 to R202). -/

namespace Sys2Proof.Machine

/-- Execute(w): decode a command word and run the command, or record the decode fault with the word (R74, R76). -/
def executeWord (w : Word) (s : State) : Host.Outcome State Fault Refusal :=
  match decodeWord w with
  | .command i => exec i s
  | .illegalOpcode => .next (raiseFault .illegalOpcode w s)
  | .reservedField => .next (raiseFault .reservedField w s)

/-- An illegal access: fault cause 5, no other effect, a read returns zero (R55). -/
def illegalAccess (off : Nat) (t : Transfer) (s : State) : State :=
  answerZero t (raiseFault .busAccess (busInfo off t) s)

/-- wdata[31:0] (R52). A legal write has 32 bits of data (R53), so none is ever filled in. -/
def dataWord : BusData → Word
  | .byte v => v.zeroExtend 32
  | .half v => v.zeroExtend 32
  | .word w => w

/-- A legal write of a word: to CMD it executes the command word, to another register it stores (R52). -/
def legalWrite (r : Reg) (w : Word) (s : State) : Host.Outcome State Fault Refusal :=
  match r with
  | .cmd => executeWord w s
  | .result | .status | .faultInfo | .thresh | .srcdim | .griddim | .aspect | .cropxy | .cropwh => .next (writeReg r w s)

/-- The access step of R52 for an access at an offset of the window. -/
def accessAt (off : Nat) (t : Transfer) (s : State) : Host.Outcome State Fault Refusal :=
  match legalReg off t with
  | none => .next (illegalAccess off t s)
  | some r =>
    match t with
    | .read _ => .next (s.answer (.word (readReg r s)))
    | .write d => legalWrite r (dataWord d) s

/-- A host access (R50, R52): outside the window it does not reach the BPQ; in the window while reset is asserted it has no
specified effect or read value (R202, log entry 4). -/
def hostAccess (a : Access) (s : State) : Host.Outcome State Fault Refusal :=
  match s.offsetOf a.addr with
  | none => .next s
  | some off => if s.inReset then .fault .accessDuringReset else accessAt off a.transfer s

/-- One host event (R65, R200, R201). Registers take their reset values when reset is asserted; releasing it changes
nothing else (R203). -/
def hostEvent (e : HostEvent) (s : State) : Host.Outcome State Fault Refusal :=
  match e with
  | .access a => hostAccess a s
  | .assertReset => .next (s.resetRegisters.setInReset true)
  | .releaseReset => .next (s.setInReset false)

/-- The host event the BPQ takes next, and the state with it taken; none when the host presents nothing. -/
def nextEvent (s : State) : Option (HostEvent × State) :=
  match s.pending with
  | [] => none
  | e :: rest => some (e, s.setPending rest)

/-- The access that carries an instruction whose bits are w: the legal 4-byte write of the word to CMD (R70, R77), at
BPQ_BASE. -/
def commandWrite (s : State) (w : Word) : HostEvent :=
  .access { addr := s.base + regOffset .cmd, transfer := .write (.word w) }

/-- The state in which the next step runs the command word w: reset is released and the host's next access is the write of
the word to CMD. -/
def placeCommand (s : State) (w : Word) : State :=
  (s.setInReset false).setPending (commandWrite s w :: s.pending)

end Sys2Proof.Machine
end

