-- ==== Sys2Proof/Machine/Step.lean ====
section
/-! DEFINITION. One step: the BPQ takes the host's next event (10_state.md R20, 20_memory.md R52). -/

namespace Sys2Proof.Machine

/-- One step. With nothing presented the BPQ waits and its state is kept (R186; log entry 3). -/
def step (s : State) : Host.Outcome State Fault Refusal :=
  match nextEvent s with
  | none => .next s
  | some (e, t) => hostEvent e t

/-- s with an instruction whose bits are w where step takes its next instruction: the host's next access is the write of
the word to CMD, and reset is released (log entry 8). -/
def State.withFetchWord (s : State) (nbits w : Nat) : State :=
  placeCommand s (BitVec.ofNat 32 (w % 2 ^ nbits))

end Sys2Proof.Machine
end

