-- ==== Sys2Proof/Machine/Assembler.lean ====
section
/-! DEFINITION. The assembler of the spec's test programs (30_encoding.md R77, R78): from a line of text to the host access
it stands for. It has no effect on the hardware (92_eei_decisions.md D30); spacing and the letter case of names and digits
are the model's reading (log entry 14). -/

namespace Sys2Proof.Machine

/-- A line of a test program, its operands not yet checked against their ranges (R77, R78). -/
inductive AsmLine where
  /-- luma R, G, B -/
  | luma (r g b : Nat)
  /-- sat R, G, B -/
  | sat (r g b : Nat)
  /-- qgrey Y, L -/
  | qgrey (y l : Nat)
  /-- qgrey Y, the one-operand form -/
  | qgreyDefault (y : Nat)
  /-- qcolor R, G, B -/
  | qcolor (r g b : Nat)
  /-- crop -/
  | crop
  /-- mirror COL -/
  | mirror (col : Nat)
  /-- wr NAME, V -/
  | wr (name : Reg) (v : Nat)
  /-- rd NAME -/
  | rd (name : Reg)
  /-- cmd W -/
  | cmd (w : Nat)
  /-- wrdim NAME, HI, LO -/
  | wrdim (name : Reg) (hi lo : Nat)
  /-- bytewr OFF, V -/
  | bytewr (off v : Nat)
  /-- rd8 OFF -/
  | rd8 (off : Nat)
  deriving DecidableEq, Repr

/-- The word of format RGB, as R77 writes it. -/
def rgbWord (opcode r g b : Nat) : Nat := opcode <<< 24 ||| r <<< 16 ||| g <<< 8 ||| b

/-- A value if a range check holds: an assembler refuses an operand outside its range, it never truncates (R77). -/
def inRange {α : Type} (ok : Bool) (a : α) : Option α := if ok then some a else none

/-- The command word of a command line; none where an operand is out of range, and for a line that is no command (R77,
R78). -/
def asmWord : AsmLine → Option Nat
  | .luma r g b => inRange (r < 256 && g < 256 && b < 256) (rgbWord 0x01 r g b)
  | .sat r g b => inRange (r < 256 && g < 256 && b < 256) (rgbWord 0x02 r g b)
  | .qgrey y l => inRange (y < 256 && l < 256) (0x03 <<< 24 ||| l <<< 8 ||| y)
  | .qgreyDefault y => inRange (y < 256) (0x03 <<< 24 ||| 26 <<< 8 ||| y)
  | .qcolor r g b => inRange (r < 256 && g < 256 && b < 256) (rgbWord 0x04 r g b)
  | .crop => some 0x05000000
  | .mirror col => inRange (col < 65536) (0x06 <<< 24 ||| col)
  | .cmd w => inRange (w < 2 ^ 32) w
  | .wr _ _ | .rd _ | .wrdim _ _ _ | .bytewr _ _ | .rd8 _ => none

/-- A 4-byte write of v to a register (R78). -/
def wordWrite (base : Nat) (r : Reg) (v : Nat) : HostEvent :=
  .access { addr := base + regOffset r, transfer := .write (.word (BitVec.ofNat 32 v)) }

/-- wr NAME, V: one legal 4-byte write; none where the register cannot be written or V is wider than 32 bits (R78). -/
def asmWrite (base : Nat) (r : Reg) (v : Nat) : Option HostEvent :=
  inRange (writable r && v < 2 ^ 32) (wordWrite base r v)

/-- The register is one that wrdim writes (R78). -/
def isDimension (r : Reg) : Bool := r == .srcdim || r == .griddim

/-- The host access a line stands for; none where the assembler refuses it (R77, R78). -/
def assemble (base : Nat) : AsmLine → Option HostEvent
  | .wr r v => asmWrite base r v
  | .rd r => inRange (readable r) (.access { addr := base + regOffset r, transfer := .read .word })
  | .wrdim r hi lo => inRange (isDimension r && hi < 65536 && lo < 65536) (wordWrite base r (hi <<< 16 ||| lo))
  | .bytewr off v =>
    inRange (off < 64 && v < 256) (.access { addr := base + off, transfer := .write (.byte (BitVec.ofNat 8 v)) })
  | .rd8 off => inRange (off < 64) (.access { addr := base + off, transfer := .read .byte })
  | line => (asmWord line).bind (asmWrite base .cmd)

/-! ## Text -/

/-- A space between tokens. -/
def isBlank (c : Char) : Bool := c == ' ' || c == '\t'

/-- The text without its comment (R77). -/
def stripComment (cs : List Char) : List Char := cs.takeWhile (· != ';')

/-- The text without the blanks at its two ends. -/
def trimBlanks (cs : List Char) : List Char := ((cs.dropWhile isBlank).reverse.dropWhile isBlank).reverse

/-- The fields of a comma-separated list (R77). -/
def splitCommas : List Char → List (List Char)
  | [] => [[]]
  | c :: cs =>
    if c = ',' then [] :: splitCommas cs
    else
      match splitCommas cs with
      | [] => [[c]]
      | field :: fields => (c :: field) :: fields

/-- The value of a digit in base 16; none for another character. -/
def digitValue (c : Char) : Option Nat :=
  if '0' ≤ c ∧ c ≤ '9' then some (c.toNat - 48)
  else if 'a' ≤ c ∧ c ≤ 'f' then some (c.toNat - 87)
  else if 'A' ≤ c ∧ c ≤ 'F' then some (c.toNat - 55)
  else none

/-- The number that digits in a base denote after the digits read so far; none at a character that is no digit of the
base. -/
def digitsValue (radix : Nat) : Nat → List Char → Option Nat
  | acc, [] => some acc
  | acc, c :: cs =>
    match digitValue c with
    | none => none
    | some d => if d < radix then digitsValue radix (acc * radix + d) cs else none

/-- A number, decimal or 0x hexadecimal (R77). -/
def parseNumber : List Char → Option Nat
  | [] => none
  | '0' :: 'x' :: d :: ds => digitsValue 16 0 (d :: ds)
  | c :: cs => digitsValue 10 0 (c :: cs)

/-- The register names of R23. -/
def regNames : List (List Char × Reg) :=
  [ (['C', 'M', 'D'], .cmd), (['R', 'E', 'S', 'U', 'L', 'T'], .result), (['S', 'T', 'A', 'T', 'U', 'S'], .status),
    (['F', 'A', 'U', 'L', 'T', 'I', 'N', 'F', 'O'], .faultInfo), (['T', 'H', 'R', 'E', 'S', 'H'], .thresh),
    (['S', 'R', 'C', 'D', 'I', 'M'], .srcdim), (['G', 'R', 'I', 'D', 'D', 'I', 'M'], .griddim),
    (['A', 'S', 'P', 'E', 'C', 'T'], .aspect), (['C', 'R', 'O', 'P', 'X', 'Y'], .cropxy),
    (['C', 'R', 'O', 'P', 'W', 'H'], .cropwh) ]

/-- A register by its name. -/
def parseReg (cs : List Char) : Option Reg := (regNames.find? (fun p => p.1 == cs)).map (·.2)

/-- All operands as numbers. -/
def parseNumbers : List (List Char) → Option (List Nat)
  | [] => some []
  | f :: fs => (parseNumber f).bind (fun n => (parseNumbers fs).map (n :: ·))

/-- A mnemonic and operands that are all numbers (R77, R78). -/
def numericLine (name : List Char) (ns : List Nat) : Option AsmLine :=
  match ns with
  | [] => if name = ['c', 'r', 'o', 'p'] then some .crop else none
  | [n] =>
    if name = ['q', 'g', 'r', 'e', 'y'] then some (.qgreyDefault n)
    else if name = ['m', 'i', 'r', 'r', 'o', 'r'] then some (.mirror n)
    else if name = ['c', 'm', 'd'] then some (.cmd n)
    else if name = ['r', 'd', '8'] then some (.rd8 n)
    else none
  | [m, n] =>
    if name = ['q', 'g', 'r', 'e', 'y'] then some (.qgrey m n)
    else if name = ['b', 'y', 't', 'e', 'w', 'r'] then some (.bytewr m n)
    else none
  | [l, m, n] =>
    if name = ['l', 'u', 'm', 'a'] then some (.luma l m n)
    else if name = ['s', 'a', 't'] then some (.sat l m n)
    else if name = ['q', 'c', 'o', 'l', 'o', 'r'] then some (.qcolor l m n)
    else none
  | _ => none

/-- A mnemonic whose first operand is a register name (R78). -/
def registerLine (name : List Char) (r : Reg) (ns : List Nat) : Option AsmLine :=
  match ns with
  | [] => if name = ['r', 'd'] then some (.rd r) else none
  | [v] => if name = ['w', 'r'] then some (.wr r v) else none
  | [hi, lo] => if name = ['w', 'r', 'd', 'i', 'm'] then some (.wrdim r hi lo) else none
  | _ => none

/-- The operand fields of the text after a mnemonic. -/
def operandFields (rest : List Char) : List (List Char) :=
  if trimBlanks rest = [] then [] else (splitCommas rest).map trimBlanks

/-- A line from its mnemonic and its operand fields. -/
def parseFields (name : List Char) (fields : List (List Char)) : Option AsmLine :=
  match fields with
  | [] => numericLine name []
  | f :: fs =>
    match parseReg f with
    | some r => (parseNumbers fs).bind (registerLine name r)
    | none => (parseNumbers (f :: fs)).bind (numericLine name)

/-- What a line of text is: nothing but blanks and a comment, a line of R77 or R78, or no line. -/
inductive ParsedLine where
  | blank
  | line (l : AsmLine)
  | unknown
  deriving DecidableEq, Repr

/-- Read one line of text (R77, R78). -/
def parseLine (text : List Char) : ParsedLine :=
  match trimBlanks (stripComment text) with
  | [] => .blank
  | c :: cs =>
    match parseFields ((c :: cs).takeWhile (fun d => !isBlank d)) (operandFields ((c :: cs).dropWhile (fun d => !isBlank d))) with
    | some l => .line l
    | none => .unknown

end Sys2Proof.Machine
end

