-- ==== Sys2Proof/Safety.lean ====
section
/-! DEFINITION. The terms that statements about the BPQ use: what a step leaves unchanged, what recording a fault means to a
host that reads STATUS, what every step keeps, and the observation of a run. -/

namespace Sys2Proof.Machine

/-- Every register but the ones listed reads the same in t as in s. -/
def KeepsRegisters (written : List Reg) (s t : State) : Prop := ∀ r, r ∉ written → readReg r t = readReg r s

/-- The model's own fields are the same in t as in s: the window's place, the reset line, what the host does next, what it
has read. -/
abbrev KeepsHostSide (s t : State) : Prop :=
  t.window = s.window ∧ t.inReset = s.inReset ∧ t.pending = s.pending ∧ t.answers = s.answers

/-- Every byte of the window outside the offsets listed reads the same in t as in s (R54). -/
def KeepsBytes (offsets : List Nat) (s t : State) : Prop :=
  ∀ a, (∀ off ∈ offsets, a ≠ s.base + off) → windowByte t a = windowByte s a

/-- The four byte offsets of a register (R54). -/
def bytesOfReg (r : Reg) : List Nat := [regOffset r, regOffset r + 1, regOffset r + 2, regOffset r + 3]

/-- What R172 says of the registers: with ERR = 0 the fault with this cause code and information is recorded and ZCROP
stays; with ERR = 1 STATUS and FAULTINFO stay. No other register changes. -/
def RecordsFault (code : Nat) (info : Word) (s t : State) : Prop :=
  ((readReg .status s).getLsbD 0 = false →
    (readReg .status t).toNat = 16 * code + 2 * ((readReg .status s).getLsbD 1).toNat + 1 ∧ readReg .faultInfo t = info) ∧
  ((readReg .status s).getLsbD 0 = true →
    readReg .status t = readReg .status s ∧ readReg .faultInfo t = readReg .faultInfo s) ∧
  KeepsRegisters [.status, .faultInfo] s t

/-- What a step that takes the head of the host's list does to the model's own fields when no read is answered. -/
abbrev TakesEvent (s t : State) : Prop :=
  t.window = s.window ∧ t.inReset = s.inReset ∧ t.pending = s.pending.tail ∧ t.answers = s.answers

/-- FAULTINFO is one that a fault of this cause leaves (R27, R170). -/
def InfoFits : FaultCause → Word → Prop
  | .illegalOpcode, w => decodeWord w = .illegalOpcode
  | .reservedField, w => decodeWord w = .reservedField
  | .geomOperand, w => decodeWord w = .command .crop
  | .mirrorRange, w => ∃ col, decodeWord w = .command (.mirror col)
  | .busAccess, w => ∃ off t, off < 64 ∧ legalReg off t = none ∧ w = busInfo off t

/-- What holds in every state the BPQ reaches from reset, and every step keeps. -/
structure State.Inv (s : State) : Prop where
  /-- CAUSE and FAULTINFO are 0 while ERR = 0 (R26, R27). -/
  noRecord : s.status.err = false → s.status.cause = none ∧ s.faultInfo = 0
  /-- With ERR = 1 there is a cause, and FAULTINFO is of its kind (R27, R170). -/
  record : s.status.err = true → ∃ c, s.status.cause = some c ∧ InfoFits c s.faultInfo
  /-- ZCROP tells whether the rectangle is empty, once a CROP has succeeded (R146). -/
  zcrop : (s.cropxy = 0 ∧ s.cropwh = 0 ∧ s.status.zcrop = false) ∨ s.status.zcrop = zcropOf (cropW s) (cropH s)
  /-- The rectangle is centred in some frame of at most 65535 pixels a side (R29, R143, R147). -/
  centredX : 2 * cropX s + cropW s ≤ 65535
  centredY : 2 * cropY s + cropH s ≤ 65535

/-- What is observed of a run: the values the reads returned and the registers after the last access (R216). -/
def observation (s : State) : List BusData × List Word := (s.answers, allRegs.map (fun r => readReg r s))

/-- The head of the host's list is an access in the window at this offset, and reset is released. -/
abbrev Presents (s : State) (off : Nat) (t : Transfer) : Prop :=
  off < 64 ∧ s.inReset = false ∧ s.pending.head? = some (.access { addr := s.base + off, transfer := t })

/-- The head of the host's list is a legal write of the word w to CMD, and reset is released (R53). -/
abbrev PresentsCommand (s : State) (w : Word) : Prop := Presents s 0 (.write (.word w))

/-- The head of the host's list asserts reset. -/
abbrev PresentsReset (s : State) : Prop := s.pending.head? = some .assertReset

end Sys2Proof.Machine
end

