-- ==== Sys2Proof/Certificates/Slice0/Obligations.lean ====
section
/-! DEFINITION. The statements for the provers. Each docstring names the rule of spec/ it formalises; OBLIGATIONS.json gives
its basis. -/

open Sys2Proof Sys2Proof.Machine

/-! ## Encoding (30_encoding.md) -/

/-- Every command is read back from its own bytes, whatever its operands (R71, R73, R75, R76). -/
def Obligations.DecodeOfEncode : Prop :=
  ∀ i : Instr, decode (encodeBytes i) = .word (.command i)

/-- A word that decodes to a command is the encoding of that command: no two words are one command and no bit is dropped
(R71, R73, R75). -/
def Obligations.EncodeOfDecode : Prop :=
  ∀ (w : Word) (i : Instr), decodeWord w = .command i → encode i = w

/-- Each word is exactly one of: an illegal opcode, a reserved-field violation, a command; which one is arithmetic on the
word (R74, R75). -/
def Obligations.DecodeClassifiesEveryWord : Prop :=
  ∀ w : Word,
    (decodeWord w = .illegalOpcode ↔ w.toNat / 2 ^ 24 = 0 ∨ 7 ≤ w.toNat / 2 ^ 24) ∧
    (decodeWord w = .reservedField ↔
      (w.toNat / 2 ^ 24 = 3 ∧ w.toNat / 2 ^ 16 % 256 ≠ 0) ∨ (w.toNat / 2 ^ 24 = 5 ∧ w.toNat % 2 ^ 24 ≠ 0) ∨
        (w.toNat / 2 ^ 24 = 6 ∧ w.toNat / 2 ^ 16 % 256 ≠ 0)) ∧
    ((∃ i, decodeWord w = .command i) ↔ decodeWord w ≠ .illegalOpcode ∧ decodeWord w ≠ .reservedField)

/-- The mask and match rows of R73 select exactly the words the decoder accepts, and no word selects two rows (R73, R75). -/
def Obligations.OpcodeRowsSelectTheCommands : Prop :=
  (∀ w : Word, wellFormedWord w = true ↔ ∃ i, decodeWord w = .command i) ∧
  (∀ (w : Word) (a b : OpcodeRow), a ∈ opcodeRows → b ∈ opcodeRows → a.selects w = true → b.selects w = true → a = b)

/-- The words of 95_test_vectors.md E-2, V-S-7, E-3, E-4, E-5 and V-MI-2 are the commands they stand for, and V-F-2 and
V-F-4 are none (sanity). -/
def Obligations.DecodeOfSpecWords : Prop :=
  decodeWord 0x01FFFFFF = .command (.luma 255 255 255) ∧ decodeWord 0x02645A50 = .command (.sat 100 90 80) ∧
  decodeWord 0x030010C8 = .command (.qgrey 200 16) ∧ decodeWord 0x04FF0000 = .command (.qcolor 255 0 0) ∧
  decodeWord 0x05000000 = .command .crop ∧ decodeWord 0x0600004F = .command (.mirror 79) ∧
  decodeWord 0x07000000 = .illegalOpcode ∧ decodeWord 0x03FF10C8 = .reservedField

/-- The words of the assembler's command forms are the encodings of their commands, and an operand out of range is refused,
never truncated (R77). -/
def Obligations.AssemblerWordsAreEncodings : Prop :=
  (∀ r g b : Nat, r < 256 → g < 256 → b < 256 →
    asmWord (.luma r g b) = some (encode (.luma (BitVec.ofNat 8 r) (BitVec.ofNat 8 g) (BitVec.ofNat 8 b))).toNat ∧
    asmWord (.sat r g b) = some (encode (.sat (BitVec.ofNat 8 r) (BitVec.ofNat 8 g) (BitVec.ofNat 8 b))).toNat ∧
    asmWord (.qcolor r g b) = some (encode (.qcolor (BitVec.ofNat 8 r) (BitVec.ofNat 8 g) (BitVec.ofNat 8 b))).toNat) ∧
  (∀ y l : Nat, y < 256 → l < 256 →
    asmWord (.qgrey y l) = some (encode (.qgrey (BitVec.ofNat 8 y) (BitVec.ofNat 8 l))).toNat ∧
    asmWord (.qgreyDefault y) = some (encode (.qgrey (BitVec.ofNat 8 y) 26)).toNat) ∧
  asmWord .crop = some (encode .crop).toNat ∧
  (∀ col : Nat, col < 65536 → asmWord (.mirror col) = some (encode (.mirror (BitVec.ofNat 16 col))).toNat) ∧
  (∀ r g b : Nat, 256 ≤ r ∨ 256 ≤ g ∨ 256 ≤ b →
    asmWord (.luma r g b) = none ∧ asmWord (.sat r g b) = none ∧ asmWord (.qcolor r g b) = none) ∧
  (∀ y l : Nat, 256 ≤ y ∨ 256 ≤ l → asmWord (.qgrey y l) = none) ∧
  (∀ y : Nat, 256 ≤ y → asmWord (.qgreyDefault y) = none) ∧
  (∀ col : Nat, 65536 ≤ col → asmWord (.mirror col) = none)

/-- The access each assembler form stands for (R77, R78), at the register offsets LegalAccesses gives in numbers: wr NAME, V
is the 4-byte write of V to NAME, rd NAME the 4-byte read of it, a command line and cmd W the 4-byte write of the word to CMD
at offset 0x00, wrdim the write of HI * 65536 + LO, bytewr and rd8 accesses of one byte at OFF; qgrey with one operand means
26 levels. So an accepted line is an access in the window, legal unless it is a bytewr or rd8 line (R53). Which registers wr
and rd take, and that OFF is below 64 and a bytewr value below 256, is the model's choice (log entry 14). -/
def Obligations.AssembledLinesAreTheirAccesses : Prop :=
  (∀ (base v : Nat) (r : Reg), assemble base (.wr r v) =
    if (r = .cmd ∨ r = .thresh ∨ r = .srcdim ∨ r = .griddim ∨ r = .aspect) ∧ v < 2 ^ 32 then
      some (.access { addr := base + regOffset r, transfer := .write (.word (BitVec.ofNat 32 v)) })
    else none) ∧
  (∀ (base : Nat) (r : Reg), assemble base (.rd r) =
    if r ≠ .cmd then some (.access { addr := base + regOffset r, transfer := .read .word }) else none) ∧
  (∀ base w : Nat, assemble base (.cmd w) =
    if w < 2 ^ 32 then some (.access { addr := base + 0x00, transfer := .write (.word (BitVec.ofNat 32 w)) }) else none) ∧
  (∀ (base : Nat) (line : AsmLine),
    (∃ x y z, line = .luma x y z ∨ line = .sat x y z ∨ line = .qcolor x y z ∨ line = .qgrey x y ∨ line = .qgreyDefault x ∨
      line = .crop ∨ line = .mirror x) →
    assemble base line = (asmWord line).map
      (fun n => .access { addr := base + 0x00, transfer := .write (.word (BitVec.ofNat 32 n)) })) ∧
  (∀ base y : Nat, assemble base (.qgreyDefault y) = assemble base (.qgrey y 26)) ∧
  (∀ (base hi lo : Nat) (r : Reg), assemble base (.wrdim r hi lo) =
    if (r = .srcdim ∨ r = .griddim) ∧ hi < 65536 ∧ lo < 65536 then
      some (.access { addr := base + regOffset r, transfer := .write (.word (BitVec.ofNat 32 (hi * 65536 + lo))) })
    else none) ∧
  (∀ base off v : Nat, assemble base (.bytewr off v) =
    if off < 64 ∧ v < 256 then some (.access { addr := base + off, transfer := .write (.byte (BitVec.ofNat 8 v)) }) else none) ∧
  (∀ base off : Nat, assemble base (.rd8 off) =
    if off < 64 then some (.access { addr := base + off, transfer := .read .byte }) else none) ∧
  (∀ (base : Nat) (line : AsmLine) (e : HostEvent), assemble base line = some e →
    ∃ off x, e = .access { addr := base + off, transfer := x } ∧ off < 64 ∧
      ((legalReg off x).isSome = true ↔ ¬ ∃ o v, line = .bytewr o v ∨ line = .rd8 o))

/-! ## The step (10_state.md R20, 20_memory.md R52) -/

/-- When the host's next access is the legal write of a word to CMD and the word decodes to a command, a step is exec of that
command in the state with the access taken, and nothing else (R20, R52, R76). -/
def Obligations.StepRunsDecodedCommand : Prop :=
  ∀ (s : State) (w : Word) (i : Instr), PresentsCommand s w → decodeWord w = .command i →
    step s = exec i (s.setPending s.pending.tail)

/-- A word placed by withFetchWord is executed by the very next step, in the state with reset released and everything else as
it was (log entry 8; R52, R70). -/
def Obligations.PlacedWordIsExecutedNext : Prop :=
  ∀ (s : State) (w : Nat), step (s.withFetchWord 32 w) = executeWord (BitVec.ofNat 32 w) (s.setInReset false)

/-- With nothing presented a step changes nothing. The idle step is the model's own (log entry 3); that state is kept is
R186. -/
def Obligations.StepWithNothingPresentedKeepsTheState : Prop :=
  ∀ s : State, s.pending = [] → step s = .next s

/-- Every command completes in every state, and a step stops only on an access presented while reset is asserted: after any
fault the BPQ goes on (R172, R173; the stop is log entry 4). -/
def Obligations.OnlyAnAccessDuringResetStops : Prop :=
  (∀ (i : Instr) (s : State), ∃ t, exec i s = .next t) ∧
  (∀ s : State, (∃ t, step s = .next t) ∨
    (step s = .fault .accessDuringReset ∧ s.inReset = true ∧
      ∃ a, s.pending.head? = some (.access a) ∧ s.base ≤ a.addr ∧ a.addr < s.base + 64))

/-! ## The quantizer unit (40_quantizer.md) -/

/-- LUMA: its encoding, its result in RESULT, and everything else unchanged (R100). -/
def Obligations.LumaResult : Prop :=
  ∀ (r g b : Byte) (s : State),
    decodeWord (BitVec.ofNat 32 (0x01 * 2 ^ 24 + r.toNat * 2 ^ 16 + g.toNat * 2 ^ 8 + b.toNat)) = .command (.luma r g b) ∧
    ∃ t, exec (.luma r g b) s = .next t ∧
      (readReg .result t).toNat = (2126 * r.toNat + 7152 * g.toNat + 722 * b.toNat) / 10000 ∧
      (readReg .result t).toNat ≤ 255 ∧
      KeepsRegisters [.result] s t ∧ KeepsHostSide s t

/-- The luma is the BT.709 weighted sum in exact decimals, truncated; it fits 8 bits, and a grey pixel's luma is its channel
value (R101). -/
def Obligations.LumaIsTheExactWeightedSum : Prop :=
  (∀ r g b : Nat, (lumaOf r g b : ℤ) = ⌊(0.2126 : ℚ) * r + 0.7152 * g + 0.0722 * b⌋) ∧
  (∀ r g b : Byte, lumaOf r.toNat g.toNat b.toNat ≤ 255) ∧ (∀ k : Nat, lumaOf k k k = k)

/-- SAT: its encoding, its result in RESULT, and everything else unchanged (R102, R103). -/
def Obligations.SatResult : Prop :=
  ∀ (r g b : Byte) (s : State),
    decodeWord (BitVec.ofNat 32 (0x02 * 2 ^ 24 + r.toNat * 2 ^ 16 + g.toNat * 2 ^ 8 + b.toNat)) = .command (.sat r g b) ∧
    ∃ t, exec (.sat r g b) s = .next t ∧
      (∀ mx mn : Nat, mx = max (max r.toNat g.toNat) b.toNat → mn = min (min r.toNat g.toNat) b.toNat →
        (readReg .result t).toNat = if mx = 0 then 0 else (mx - mn) * 255 / mx) ∧
      (readReg .result t).toNat ≤ 255 ∧
      KeepsRegisters [.result] s t ∧ KeepsHostSide s t

/-- Saturation is at most 255, is 0 exactly for grey pixels, and is 255 exactly for a pixel that is not black and has a zero
channel (R102 corner cases, R103). -/
def Obligations.SaturationExtremes : Prop :=
  ∀ r g b : Byte, satOf r.toNat g.toNat b.toNat ≤ 255 ∧
    (satOf r.toNat g.toNat b.toNat = 0 ↔ r = g ∧ g = b) ∧
    (satOf r.toNat g.toNat b.toNat = 255 ↔ (r = 0 ∨ g = 0 ∨ b = 0) ∧ ¬(r = 0 ∧ g = 0 ∧ b = 0))

/-- QGREY: its encoding, its result in RESULT through the grey ramp, and everything else unchanged; with a reserved bit set
the fault RESERVED_FIELD instead (R104, R105, the ramp of R35). -/
def Obligations.QgreyResult : Prop :=
  (∀ (y l : Byte) (s : State),
    decodeWord (BitVec.ofNat 32 (0x03 * 2 ^ 24 + l.toNat * 2 ^ 8 + y.toNat)) = .command (.qgrey y l) ∧
    ∃ t, exec (.qgrey y l) s = .next t ∧
      (∀ levels scaled idx : Nat, levels = min (max l.toNat 2) 26 → scaled = y.toNat * levels / 256 →
        idx = (if levels = 26 then scaled else scaled * 25 / (levels - 1)) →
        scaled ≤ levels - 1 ∧ idx ≤ 25 ∧ (readReg .result t).toNat = if idx = 0 then 16 else if idx = 25 then 231 else 231 + idx) ∧
      KeepsRegisters [.result] s t ∧ KeepsHostSide s t) ∧
  (∀ (w : Word) (s : State), w.toNat / 2 ^ 24 = 3 → w.toNat / 2 ^ 16 % 256 ≠ 0 →
    ∃ t, executeWord w s = .next t ∧ RecordsFault 2 w s t ∧ KeepsHostSide s t)

/-- QGREY's corner cases: level counts are clamped to [2,26], luma 0 gives 16 and luma 255 gives 231 at every level count,
and every result is in the grey ramp (R104, R111). -/
def Obligations.QgreyClampsAndEnds : Prop :=
  (∀ (y l : Byte) (s : State), l.toNat ≤ 2 → exec (.qgrey y l) s = exec (.qgrey y 2) s) ∧
  (∀ (y l : Byte) (s : State), 26 ≤ l.toNat → exec (.qgrey y l) s = exec (.qgrey y 26) s) ∧
  (∀ (l : Byte) (s : State), exec (.qgrey 0 l) s = .next (s.setResult 16) ∧ exec (.qgrey 255 l) s = .next (s.setResult 231)) ∧
  (∀ y l : Byte, quantizeGrey y.toNat l.toNat ∈ romGrey)

/-- For 16, 8, 4 and 2 levels the scaled luma is an exact right shift (R110, derived there). -/
def Obligations.ScaledLumaIsAShift : Prop :=
  ∀ y : Byte, scaledLuma y.toNat 16 = (y >>> 4).toNat ∧ scaledLuma y.toNat 8 = (y >>> 5).toNat ∧
    scaledLuma y.toNat 4 = (y >>> 6).toNat ∧ scaledLuma y.toNat 2 = (y >>> 7).toNat

/-- QCOLOR: its encoding, its result in RESULT on either path with the threshold THRESH holds as it executes, and everything
else unchanged (R106, R109). -/
def Obligations.QcolorResult : Prop :=
  ∀ (r g b : Byte) (s : State),
    decodeWord (BitVec.ofNat 32 (0x04 * 2 ^ 24 + r.toNat * 2 ^ 16 + g.toNat * 2 ^ 8 + b.toNat)) = .command (.qcolor r g b) ∧
    ∃ t, exec (.qcolor r g b) s = .next t ∧
      (satOf r.toNat g.toNat b.toNat ≤ (readReg .thresh s).toNat →
        (readReg .result t).toNat = quantizeGrey (lumaOf r.toNat g.toNat b.toNat) 26) ∧
      ((readReg .thresh s).toNat < satOf r.toNat g.toNat b.toNat →
        (readReg .result t).toNat = 16 + 36 * cubeCoord r.toNat + 6 * cubeCoord g.toNat + cubeCoord b.toNat) ∧
      KeepsRegisters [.result] s t ∧ KeepsHostSide s t

/-- The cube coordinate is the nearest stop, ties to the higher one, and is the largest i whose lower midpoint the channel
value reaches (R107, with the stops of R33). -/
def Obligations.CubeCoordIsTheNearestStop : Prop :=
  (∀ c j : Nat, j ≤ 5 →
    |(c : ℤ) - romStop.getD (cubeCoord c) 0| ≤ |(c : ℤ) - romStop.getD j 0| ∧
    (|(c : ℤ) - romStop.getD (cubeCoord c) 0| = |(c : ℤ) - romStop.getD j 0| → j ≤ cubeCoord c)) ∧
  (∀ c i : Nat, 1 ≤ i → i ≤ 5 →
    (i ≤ cubeCoord c ↔ ((romStop.getD (i - 1) 0 : ℚ) + romStop.getD i 0) / 2 ≤ c)) ∧
  (∀ c : Nat, cubeCoord c ≤ 5)

/-- No quantizer command yields a basic colour: QCOLOR's result is the cube cell of its channels' coordinates when the
saturation exceeds the threshold, and is in the grey ramp otherwise (R111, derived there; R36). -/
def Obligations.QcolorNeverYieldsABasicColour : Prop :=
  ∀ (r g b : Byte) (thr : Nat),
    paletteRegion (quantizeColor r.toNat g.toNat b.toNat thr) ≠ .basic ∧
    quantizeColor r.toNat g.toNat b.toNat thr ≤ 255 ∧
    (thr < satOf r.toNat g.toNat b.toNat →
      paletteRegion (quantizeColor r.toNat g.toNat b.toNat thr) =
        .cube (cubeCoord r.toNat) (cubeCoord g.toNat) (cubeCoord b.toNat)) ∧
    (satOf r.toNat g.toNat b.toNat ≤ thr → quantizeColor r.toNat g.toNat b.toNat thr ∈ romGrey)

/-- A grey pixel takes the grey path at every threshold (R112, derived there). -/
def Obligations.GreyPixelsTakeTheGreyPath : Prop :=
  ∀ (k : Byte) (s : State), ∃ t, exec (.qcolor k k k) s = .next t ∧
    (readReg .result t).toNat = greyEntry (26 * k.toNat / 256)

/-- A cube colour whose saturation exceeds the threshold returns its own index (R113, derived there; 90_conflicts.md C1). -/
def Obligations.CubeColoursKeepTheirIndex : Prop :=
  ∀ (i j k : Nat) (s : State), i ≤ 5 → j ≤ 5 → k ≤ 5 →
    (readReg .thresh s).toNat < satOf (romStop.getD i 0) (romStop.getD j 0) (romStop.getD k 0) →
    ∃ t, exec (.qcolor (BitVec.ofNat 8 (romStop.getD i 0)) (BitVec.ofNat 8 (romStop.getD j 0))
        (BitVec.ofNat 8 (romStop.getD k 0))) s = .next t ∧
      (readReg .result t).toNat = 16 + 36 * i + 6 * j + k

/-- What a quantizer command leaves in RESULT depends on its operands and, for QCOLOR only, on THRESH: two states that differ
in anything else get the same result (R116, derived there). -/
def Obligations.QuantizerReadsOnlyThresh : Prop :=
  ∀ (i : Instr) (s s' t t' : State),
    (∃ r g b, i = .luma r g b ∨ i = .sat r g b ∨ i = .qgrey g b ∨ (i = .qcolor r g b ∧ readReg .thresh s = readReg .thresh s')) →
    exec i s = .next t → exec i s' = .next t' → readReg .result t = readReg .result t'

/-! ## The geometry unit (41_geometry.md) -/

/-- CROP: its encoding; with every input nonzero the rectangle of R142 and R143 in CROPXY and CROPWH, ZCROP by R146, and
everything else unchanged, ERR and CAUSE with it; with a zero input the fault GEOM_OPERAND with the command word; with a
reserved bit set the fault RESERVED_FIELD (R144, R145, R146). -/
def Obligations.CropResult : Prop :=
  decodeWord 0x05000000 = .command .crop ∧
  (∀ (s : State) (SW SH GC GR A W H : Nat),
    SW = (readReg .srcdim s).toNat % 65536 → SH = (readReg .srcdim s).toNat / 65536 →
    GC = (readReg .griddim s).toNat % 65536 → GR = (readReg .griddim s).toNat / 65536 → A = (readReg .aspect s).toNat →
    SW ≠ 0 → SH ≠ 0 → GC ≠ 0 → GR ≠ 0 → A ≠ 0 →
    (65536 * GR * SW < A * GC * SH → W = SW ∧ H = SW * 65536 * GR / (A * GC)) →
    (A * GC * SH < 65536 * GR * SW → H = SH ∧ W = A * GC * SH / (65536 * GR)) →
    (A * GC * SH = 65536 * GR * SW → W = SW ∧ H = SH) →
    ∃ t, exec .crop s = .next t ∧
      (readReg .cropxy t).toNat = 65536 * ((SH - H) / 2) + (SW - W) / 2 ∧
      (readReg .cropwh t).toNat = 65536 * H + W ∧
      (readReg .status t).getLsbD 1 = decide (W = 0 ∨ H = 0) ∧
      (∀ k, k ≠ 1 → (readReg .status t).getLsbD k = (readReg .status s).getLsbD k) ∧
      KeepsRegisters [.cropxy, .cropwh, .status] s t ∧ KeepsHostSide s t) ∧
  (∀ s : State,
    (readReg .srcdim s).toNat % 65536 = 0 ∨ (readReg .srcdim s).toNat / 65536 = 0 ∨
      (readReg .griddim s).toNat % 65536 = 0 ∨ (readReg .griddim s).toNat / 65536 = 0 ∨ (readReg .aspect s).toNat = 0 →
    ∃ t, exec .crop s = .next t ∧ RecordsFault 3 0x05000000 s t ∧ KeepsHostSide s t) ∧
  (∀ (w : Word) (s : State), w.toNat / 2 ^ 24 = 5 → w.toNat % 2 ^ 24 ≠ 0 →
    ∃ t, executeWord w s = .next t ∧ RecordsFault 2 w s t ∧ KeepsHostSide s t)

/-- The comparison of products is the comparison of the exact aspects: effectiveAspect > sourceAspect exactly when
A * GC * SH > 65536 * GR * SW, and equal exactly when the products are (R141). -/
def Obligations.AspectComparisonIsExact : Prop :=
  ∀ SW SH GC GR A : Nat, 0 < SW → 0 < SH → 0 < GC → 0 < GR → 0 < A →
    ((SW : ℚ) / SH < (A : ℚ) / 65536 * GC / GR ↔ cropRhs GR SW < cropLhs A GC SH) ∧
    ((SW : ℚ) / SH = (A : ℚ) / 65536 * GC / GR ↔ cropRhs GR SW = cropLhs A GC SH)

/-- The crop size is the floor of the source's real formulas: sourceWidth / effectiveAspect or
effectiveAspect * sourceHeight, in exact arithmetic, and never exceeds the source (R142). -/
def Obligations.CropSizeIsTheFloorOfTheExactQuotient : Prop :=
  ∀ (SW SH GC GR A : Nat) (eff : ℚ), 0 < SW → 0 < SH → 0 < GC → 0 < GR → 0 < A → eff = (A : ℚ) / 65536 * GC / GR →
    ((SW : ℚ) / SH < eff → cropSize SW SH GC GR A = (SW, ⌊(SW : ℚ) / eff⌋₊) ∧ ⌊(SW : ℚ) / eff⌋₊ < SH) ∧
    (eff < (SW : ℚ) / SH → cropSize SW SH GC GR A = (⌊eff * SH⌋₊, SH) ∧ ⌊eff * SH⌋₊ < SW) ∧
    (eff = (SW : ℚ) / SH → cropSize SW SH GC GR A = (SW, SH))

/-- After a CROP that succeeds the rectangle lies in the source frame and keeps one full dimension (R147, derived there). -/
def Obligations.CropRectangleLiesInTheFrame : Prop :=
  ∀ s t : State, srcWidth s ≠ 0 → srcHeight s ≠ 0 → gridCols s ≠ 0 → gridRows s ≠ 0 → aspectA s ≠ 0 →
    exec .crop s = .next t →
    cropX t + cropW t ≤ srcWidth s ∧ cropY t + cropH t ≤ srcHeight s ∧ cropW t ≤ srcWidth s ∧ cropH t ≤ srcHeight s ∧
    (cropW t = srcWidth s ∨ cropH t = srcHeight s)

/-- After a CROP that succeeds the crop is centred: the left margin is X, the right one is X, or X + 1 when SW - W is odd;
likewise top and bottom (R143; 90_conflicts.md C2). -/
def Obligations.CropMarginsDifferByTheOddPixel : Prop :=
  ∀ s t : State, srcWidth s ≠ 0 → srcHeight s ≠ 0 → gridCols s ≠ 0 → gridRows s ≠ 0 → aspectA s ≠ 0 →
    exec .crop s = .next t →
    cropX t = (srcWidth s - cropW t) / 2 ∧ cropY t = (srcHeight s - cropH t) / 2 ∧
    srcWidth s - cropX t - cropW t = cropX t + (srcWidth s - cropW t) % 2 ∧
    srcHeight s - cropY t - cropH t = cropY t + (srcHeight s - cropH t) % 2

/-- MIRROR: its encoding; below GC the mirrored column in RESULT and everything else unchanged; at or above GC the fault
MIRROR_RANGE; with a reserved bit set the fault RESERVED_FIELD (R148, R149). -/
def Obligations.MirrorResult : Prop :=
  (∀ (col : Half) (s : State),
    decodeWord (BitVec.ofNat 32 (0x06 * 2 ^ 24 + col.toNat)) = .command (.mirror col) ∧
    (col.toNat < (readReg .griddim s).toNat % 65536 →
      ∃ t, exec (.mirror col) s = .next t ∧
        (readReg .result t).toNat = (readReg .griddim s).toNat % 65536 - 1 - col.toNat ∧
        KeepsRegisters [.result] s t ∧ KeepsHostSide s t) ∧
    ((readReg .griddim s).toNat % 65536 ≤ col.toNat →
      ∃ t, exec (.mirror col) s = .next t ∧
        RecordsFault 4 (BitVec.ofNat 32 (0x06 * 2 ^ 24 + col.toNat)) s t ∧ KeepsHostSide s t)) ∧
  (∀ (w : Word) (s : State), w.toNat / 2 ^ 24 = 6 → w.toNat / 2 ^ 16 % 256 ≠ 0 →
    ∃ t, executeWord w s = .next t ∧ RecordsFault 2 w s t ∧ KeepsHostSide s t)

/-- Mirroring twice returns the original column (R148). -/
def Obligations.MirroringTwiceReturnsTheColumn : Prop :=
  ∀ (col : Half) (s : State), col.toNat < gridCols s →
    ∃ t, exec (.mirror col) s = .next t ∧
      ∃ u, exec (.mirror (lowHalf (readReg .result t))) t = .next u ∧ readReg .result u = col.zeroExtend 32

/-- Which bytes of the window a command may change: RESULT's for LUMA, SAT, QGREY and QCOLOR; RESULT's for a MIRROR in range;
those of STATUS, CROPXY and CROPWH for a CROP with nonzero inputs; those of STATUS and FAULTINFO for a MIRROR or CROP that
faults. Every other byte reads as before (R54, R116, R151, R172). -/
def Obligations.CommandsKeepEveryOtherByte : Prop :=
  ∀ (s t : State),
    (∀ i : Instr, (∃ r g b, i = .luma r g b ∨ i = .sat r g b ∨ i = .qgrey g b ∨ i = .qcolor r g b) →
      exec i s = .next t → KeepsBytes (bytesOfReg .result) s t) ∧
    (∀ col : Half, exec (.mirror col) s = .next t →
      (col.toNat < gridCols s → KeepsBytes (bytesOfReg .result) s t) ∧
      (gridCols s ≤ col.toNat → KeepsBytes (bytesOfReg .status ++ bytesOfReg .faultInfo) s t)) ∧
    (exec .crop s = .next t →
      (cropDegenerate s = false → KeepsBytes (bytesOfReg .status ++ bytesOfReg .cropxy ++ bytesOfReg .cropwh) s t) ∧
      (cropDegenerate s = true → KeepsBytes (bytesOfReg .status ++ bytesOfReg .faultInfo) s t))

/-- A command run again at once leaves the same state (R57, derived there). -/
def Obligations.RepeatingACommandChangesNothing : Prop :=
  ∀ (i : Instr) (s t : State), exec i s = .next t → exec i t = .next t

/-! ## Faults (60_exceptions.md) -/

/-- Recording a fault: the first since reset sets ERR, CAUSE and FAULTINFO, a later one changes nothing, and no other register
is written (R172). -/
def Obligations.FirstFaultIsKept : Prop :=
  ∀ (info : Word) (s : State),
    RecordsFault 1 info s (raiseFault .illegalOpcode info s) ∧ RecordsFault 2 info s (raiseFault .reservedField info s) ∧
    RecordsFault 3 info s (raiseFault .geomOperand info s) ∧ RecordsFault 4 info s (raiseFault .mirrorRange info s) ∧
    RecordsFault 5 info s (raiseFault .busAccess info s) ∧ ∀ c, KeepsHostSide s (raiseFault c info s)

/-- A write of an illegal or reserved encoding to CMD: the step records cause 1 or cause 2 with the word, takes the access
and changes nothing else (R74). -/
def Obligations.IllegalWordsFault : Prop :=
  ∀ (s : State) (w : Word), PresentsCommand s w →
    (w.toNat / 2 ^ 24 = 0 ∨ 7 ≤ w.toNat / 2 ^ 24 → ∃ t, step s = .next t ∧ RecordsFault 1 w s t ∧ TakesEvent s t) ∧
    ((w.toNat / 2 ^ 24 = 3 ∧ w.toNat / 2 ^ 16 % 256 ≠ 0) ∨ (w.toNat / 2 ^ 24 = 5 ∧ w.toNat % 2 ^ 24 ≠ 0) ∨
        (w.toNat / 2 ^ 24 = 6 ∧ w.toNat / 2 ^ 16 % 256 ≠ 0) →
      ∃ t, step s = .next t ∧ RecordsFault 2 w s t ∧ TakesEvent s t)

/-- The priority of the checks on a write to CMD: an illegal access is cause 5 whatever the data, an illegal opcode comes
before reserved bits, and reserved bits come before the command's own operand check (R174). -/
def Obligations.FaultChecksRunInOrder : Prop :=
  ∀ (s : State) (d : BusData), Presents s 0 (.write d) →
    ∃ t, step s = .next t ∧
      (dataWidth d ≠ .word → RecordsFault 5 (busInfo 0 (.write d)) s t) ∧
      (∀ w, d = .word w →
        (decodeWord w = .illegalOpcode → RecordsFault 1 w s t) ∧
        (decodeWord w = .reservedField → RecordsFault 2 w s t) ∧
        (decodeWord w = .command .crop → cropDegenerate s = true → RecordsFault 3 w s t) ∧
        (∀ col, decodeWord w = .command (.mirror col) → gridCols s ≤ col.toNat → RecordsFault 4 w s t))

/-- STATUS as the host reads it: ERR in bit 0, ZCROP in bit 1, CAUSE in [7:4], every other bit zero; the codes of R170
(R26, R170). -/
def Obligations.StatusLayout : Prop :=
  (∀ s : State, (readReg .status s).getLsbD 0 = s.status.err ∧ (readReg .status s).getLsbD 1 = s.status.zcrop ∧
    (readReg .status s).toNat / 16 = (causeCode s.status.cause).toNat ∧
    (readReg .status s).toNat / 4 % 4 = 0) ∧
  causeCode none = 0 ∧ causeCode (some .illegalOpcode) = 1 ∧ causeCode (some .reservedField) = 2 ∧
  causeCode (some .geomOperand) = 3 ∧ causeCode (some .mirrorRange) = 4 ∧ causeCode (some .busAccess) = 5

/-! ## The register window (20_memory.md) -/

/-- An access is legal exactly when n = 4, off mod 4 = 0 and off names a register that allows the direction: the nine
readable offsets 0x04 to 0x24 and the five writable offsets 0x00, 0x10, 0x14, 0x18, 0x1C (R53, R23). A legal access reaches
the register that R23 places at its offset; the ten offsets are given as numbers, and every statement that names regOffset
rests on them. -/
def Obligations.LegalAccesses : Prop :=
  (∀ (off : Nat) (t : Transfer),
    ((legalReg off t).isSome = true ↔
      transferWidth t = .word ∧ off % 4 = 0 ∧
        ((isWrite t = false ∧ 0x04 ≤ off ∧ off ≤ 0x24) ∨
         (isWrite t = true ∧ (off = 0x00 ∨ (0x10 ≤ off ∧ off ≤ 0x1C))))) ∧
    (∀ r, legalReg off t = some r →
      (off = 0x00 ∧ r = .cmd) ∨ (off = 0x04 ∧ r = .result) ∨ (off = 0x08 ∧ r = .status) ∨ (off = 0x0C ∧ r = .faultInfo) ∨
      (off = 0x10 ∧ r = .thresh) ∨ (off = 0x14 ∧ r = .srcdim) ∨ (off = 0x18 ∧ r = .griddim) ∨ (off = 0x1C ∧ r = .aspect) ∨
      (off = 0x20 ∧ r = .cropxy) ∨ (off = 0x24 ∧ r = .cropwh))) ∧
  regOffset .cmd = 0x00 ∧ regOffset .result = 0x04 ∧ regOffset .status = 0x08 ∧ regOffset .faultInfo = 0x0C ∧
  regOffset .thresh = 0x10 ∧ regOffset .srcdim = 0x14 ∧ regOffset .griddim = 0x18 ∧ regOffset .aspect = 0x1C ∧
  regOffset .cropxy = 0x20 ∧ regOffset .cropwh = 0x24

/-- An illegal access in the window: cause 5 is recorded with OFFSET, WR and SIZE, nothing else is stored or executed, a read
is answered zero in all its bits, and the step goes on (R55, with the layout of R27). -/
def Obligations.IllegalAccessFaults : Prop :=
  ∀ (s : State) (off : Nat) (x : Transfer), Presents s off x → legalReg off x = none →
    ∃ t, step s = .next t ∧
      RecordsFault 5 (BitVec.ofNat 32 (off + (if isWrite x then 256 else 0) +
        (if transferWidth x = .word then 1024 else if transferWidth x = .half then 512 else 0))) s t ∧
      t.window = s.window ∧ t.inReset = s.inReset ∧ t.pending = s.pending.tail ∧
      (isWrite x = true → t.answers = s.answers) ∧
      (x = .read .byte → t.answers = s.answers ++ [.byte 0]) ∧ (x = .read .half → t.answers = s.answers ++ [.half 0]) ∧
      (x = .read .word → t.answers = s.answers ++ [.word 0])

/-- A legal read returns the register's 32 bits and changes no register; STATUS is not cleared by it (R52, R56, R57). -/
def Obligations.LegalReadHasNoSideEffect : Prop :=
  ∀ (s : State) (r : Reg), r ≠ .cmd → Presents s (regOffset r) (.read .word) →
    ∃ t, step s = .next t ∧ (∀ q, readReg q t = readReg q s) ∧ t.answers = s.answers ++ [.word (readReg r s)] ∧
      t.window = s.window ∧ t.inReset = s.inReset ∧ t.pending = s.pending.tail

/-- A legal write to THRESH, SRCDIM, GRIDDIM or ASPECT stores the bits the register defines and no other, and changes nothing
else; it recomputes no crop. Reserved bits of every register read as zero in every state (R38; R28 to R31 and R57 for the
registers; R25 and R26 for the reserved bits). -/
def Obligations.LegalWriteStoresTheDefinedBits : Prop :=
  (∀ (s : State) (r : Reg) (w : Word), r = .thresh ∨ r = .srcdim ∨ r = .griddim ∨ r = .aspect →
    Presents s (regOffset r) (.write (.word w)) →
    ∃ t, step s = .next t ∧ readReg r t = (w &&& if r = .thresh then 0x000000FF else 0xFFFFFFFF) ∧
      KeepsRegisters [r] s t ∧ TakesEvent s t) ∧
  (∀ s : State, (readReg .result s &&& 0xFFFF0000) = 0 ∧ (readReg .thresh s &&& 0xFFFFFF00) = 0 ∧
    (readReg .status s &&& 0xFFFFFF0C) = 0)

/-- The lanes of the register window: byte k of a readable register lies at BPQ_BASE + off + k and holds bits [8k+7:8k], and
the four lanes make the register's word (R54). -/
def Obligations.ByteLanesAreLittleEndian : Prop :=
  ∀ (s : State) (r : Reg), r ≠ .cmd →
    (∀ k, k < 4 → windowByte s (s.base + regOffset r + k) = some (BitVec.ofNat 8 ((readReg r s).toNat / 256 ^ k))) ∧
    wordOfLanes (laneOf (readReg r s) 0) (laneOf (readReg r s) 1) (laneOf (readReg r s) 2) (laneOf (readReg r s) 3) =
      readReg r s

/-- An access outside the window does not reach the BPQ: it is taken from the host's list and changes nothing (R50; log
entry 7). -/
def Obligations.AccessOutsideTheWindowIsNotDecoded : Prop :=
  ∀ (s : State) (a : Access), s.pending.head? = some (.access a) → (a.addr < s.base ∨ s.base + 64 ≤ a.addr) →
    ∃ t, step s = .next t ∧ (∀ r, readReg r t = readReg r s) ∧ TakesEvent s t

/-- The fields of the two-halves registers and ASPECT (R29, R30, R31, R32). -/
def Obligations.DimensionFields : Prop :=
  ∀ s : State,
    srcWidth s + 65536 * srcHeight s = (readReg .srcdim s).toNat ∧ gridCols s + 65536 * gridRows s = (readReg .griddim s).toNat ∧
    cropX s + 65536 * cropY s = (readReg .cropxy s).toNat ∧ cropW s + 65536 * cropH s = (readReg .cropwh s).toNat ∧
    aspectA s = (readReg .aspect s).toNat ∧ srcWidth s < 65536 ∧ gridCols s < 65536 ∧ cropX s < 65536 ∧ cropW s < 65536

/-- What a step does to the model's own fields: the window stays in place, at most the head of the host's list is taken, and
exactly an answered read adds one value to what the host has read (R50, R51, R216; log entries 1, 2 and 6). -/
def Obligations.StepTakesOneEventAndAnswersReads : Prop :=
  ∀ s t : State, step s = .next t →
    t.window = s.window ∧ t.pending = s.pending.tail ∧
    ((∃ off n, Presents s off (.read n)) → ∃ d, t.answers = s.answers ++ [d] ∧ ∃ off n, Presents s off (.read n) ∧ dataWidth d = n) ∧
    ((¬ ∃ off n, Presents s off (.read n)) → t.answers = s.answers)

/-! ## Reset (70_reset_and_hazards.md) -/

/-- Asserting reset sets every register to its reset value, whatever it held (R200). -/
def Obligations.ResetSetsEveryRegister : Prop :=
  ∀ s : State, PresentsReset s → ∃ t, step s = .next t ∧
    readReg .result t = 0 ∧ readReg .status t = 0 ∧ readReg .faultInfo t = 0 ∧ readReg .thresh t = 0x00000040 ∧
    readReg .srcdim t = 0 ∧ readReg .griddim t = 0 ∧ readReg .aspect t = 0 ∧ readReg .cropxy t = 0 ∧ readReg .cropwh t = 0

/-- The registers right after reset (R23, R200), and the model's own fields there (log entries 1, 5 and 6); nothing is said of
the window's place, which is the platform's. -/
def Obligations.StateRightAfterReset : Prop :=
  readReg .result State.reset = 0 ∧ readReg .status State.reset = 0 ∧ readReg .faultInfo State.reset = 0 ∧
  readReg .thresh State.reset = 0x00000040 ∧ readReg .srcdim State.reset = 0 ∧ readReg .griddim State.reset = 0 ∧
  readReg .aspect State.reset = 0 ∧ readReg .cropxy State.reset = 0 ∧ readReg .cropwh State.reset = 0 ∧
  State.reset.inReset = false ∧ State.reset.pending = [] ∧ State.reset.answers = []

/-- Releasing reset changes nothing but the line: the BPQ accepts accesses at once (R203; the line is log entry 5). -/
def Obligations.ReleasingResetOnlyReleasesTheLine : Prop :=
  ∀ s : State, s.pending.head? = some .releaseReset →
    ∃ t, step s = .next t ∧ (∀ r, readReg r t = readReg r s) ∧ t.inReset = false ∧ t.window = s.window ∧
      t.pending = s.pending.tail ∧ t.answers = s.answers

/-- An access in the window while reset is asserted stops the model (R202 gives it no effect and no read value; log
entry 4). -/
def Obligations.AccessDuringResetIsAStop : Prop :=
  ∀ (s : State) (a : Access), s.inReset = true → s.pending.head? = some (.access a) → s.base ≤ a.addr →
    a.addr < s.base + 64 → step s = .fault .accessDuringReset

/-- Only reset clears ERR, CAUSE and FAULTINFO, and only reset and a legal write change THRESH, SRCDIM, GRIDDIM or ASPECT;
after reset the registers are those of R200 in every case (R201). -/
def Obligations.OnlyResetClearsTheFaultRecord : Prop :=
  ∀ s t : State, step s = .next t →
    (¬ PresentsReset s → (readReg .status s).getLsbD 0 = true →
      (readReg .status t).getLsbD 0 = true ∧ (readReg .status t).toNat / 16 = (readReg .status s).toNat / 16 ∧
        readReg .faultInfo t = readReg .faultInfo s) ∧
    (∀ r, r = .thresh ∨ r = .srcdim ∨ r = .griddim ∨ r = .aspect → readReg r t ≠ readReg r s →
      PresentsReset s ∨ ∃ w, Presents s (regOffset r) (.write (.word w))) ∧
    (PresentsReset s → ∀ r, readReg r t = readReg r State.reset)

/-- CROPXY, CROPWH and ZCROP change only by a CROP that succeeds or by reset (R32, R39). -/
def Obligations.OnlyACropChangesTheRectangle : Prop :=
  ∀ s t : State, step s = .next t →
    readReg .cropxy t ≠ readReg .cropxy s ∨ readReg .cropwh t ≠ readReg .cropwh s ∨
      (readReg .status t).getLsbD 1 ≠ (readReg .status s).getLsbD 1 →
    PresentsReset s ∨ (PresentsCommand s 0x05000000 ∧ srcWidth s ≠ 0 ∧ srcHeight s ≠ 0 ∧ gridCols s ≠ 0 ∧ gridRows s ≠ 0 ∧
      aspectA s ≠ 0)

/-- RESULT changes only by LUMA, SAT, QGREY, QCOLOR, a MIRROR in range, or reset: CROP and a command that faults leave it
(R25). -/
def Obligations.OnlyFiveCommandsChangeResult : Prop :=
  ∀ s t : State, step s = .next t → readReg .result t ≠ readReg .result s →
    PresentsReset s ∨ ∃ w i, PresentsCommand s w ∧ decodeWord w = .command i ∧ i ≠ .crop ∧
      (∀ col, i = .mirror col → col.toNat < gridCols s)

/-- A THRESH write affects the QCOLOR that follows it (R212, derived there): two steps, the write and then the command. -/
def Obligations.ThresholdIsSampledWhenQcolorExecutes : Prop :=
  ∀ (s : State) (v r g b : Byte) (rest : List HostEvent), s.inReset = false →
    s.pending = .access { addr := s.base + 0x10, transfer := .write (.word (v.zeroExtend 32)) } ::
      .access { addr := s.base, transfer := .write (.word (encode (.qcolor r g b))) } :: rest →
    ∃ t, Sys2Proof.core.run 2 s = .next t ∧
      (readReg .result t).toNat = quantizeColor r.toNat g.toNat b.toNat v.toNat ∧ t.pending = rest

/-- A batch of steps without reset that ends with ERR = 0 recorded no fault at any of them (R173, derived there). -/
def Obligations.CleanStatusMeansACleanBatch : Prop :=
  ∀ (k j : Nat) (s t : State), Sys2Proof.core.run k s = .next t → (readReg .status t).getLsbD 0 = false →
    (∀ e ∈ s.pending.take k, e ≠ HostEvent.assertReset) → j ≤ k →
    ∃ u, Sys2Proof.core.run j s = .next u ∧ (readReg .status u).getLsbD 0 = false

/-! ## Whole-machine rules -/

/-- Every step keeps the invariant: CAUSE and FAULTINFO are 0 while ERR = 0, FAULTINFO is of its cause's kind, ZCROP tells of
an empty rectangle, the rectangle is centred in some frame (R26, R27, R146, R147, R170). -/
def Obligations.StepKeepsTheInvariant : Prop :=
  ∀ s t : State, s.Inv → step s = .next t → t.Inv

/-- The invariant holds right after reset (R200). -/
def Obligations.ResetMeetsTheInvariant : Prop := State.reset.Inv

/-- The constant tables: six stops, the thresholds as the least integers at or above the midpoints, the 26 grey entries; every
entry fits 8 bits (R33, R34, R35, R41). -/
def Obligations.ConstantTables : Prop :=
  romStop = [0, 95, 135, 175, 215, 255] ∧ romT.length = 5 ∧
  (∀ k < 5, romT.getD k 0 = (romStop.getD k 0 + romStop.getD (k + 1) 0 + 1) / 2) ∧
  romGrey.length = 26 ∧ greyEntry 0 = 16 ∧ greyEntry 25 = 231 ∧ (∀ k < 25, 1 ≤ k → greyEntry k = 231 + k) ∧
  (∀ x ∈ romStop ++ romT ++ romGrey, x < 256)

/-- No intermediate of a command exceeds its bound: the four of R114 (luma sum, saturation numerator, y * L, scaled * 25)
and the five of R150. No divisor is zero: SAT divides only by a positive maximum, QGREY by L - 1 at least 1, CROP by products
that are positive once its inputs are. MIRROR's subtraction in range does not underflow (R114 and R150, derived there). -/
def Obligations.IntermediatesFit : Prop :=
  (∀ r g b : Byte, 2126 * r.toNat + 7152 * g.toNat + 722 * b.toNat ≤ 2550000) ∧
  (∀ r g b : Byte, ∀ mx mn : Nat, mx = max r.toNat (max g.toNat b.toNat) → mn = min r.toNat (min g.toNat b.toNat) →
    (mx - mn) * 255 ≤ 65025 ∧ mn ≤ mx ∧ (mx = 0 → satOf r.toNat g.toNat b.toNat = 0) ∧
    (mx ≠ 0 → 0 < mx ∧ satOf r.toNat g.toNat b.toNat = (mx - mn) * 255 / mx)) ∧
  (∀ y l : Byte, y.toNat * clampLevels l.toNat ≤ 6630 ∧ scaledLuma y.toNat (clampLevels l.toNat) * 25 ≤ 625 ∧
    1 ≤ clampLevels l.toNat - 1) ∧
  (∀ s : State, cropLhs (aspectA s) (gridCols s) (srcHeight s) < 2 ^ 64 ∧ cropRhs (gridRows s) (srcWidth s) < 2 ^ 48 ∧
    srcWidth s * 65536 * gridRows s < 2 ^ 48 ∧ aspectA s * gridCols s < 2 ^ 48 ∧ 65536 * gridRows s < 2 ^ 32 ∧
    (cropDegenerate s = false → 0 < aspectA s * gridCols s ∧ 0 < 65536 * gridRows s)) ∧
  (∀ (col : Half) (s : State), col.toNat < gridCols s →
    col.toNat ≤ gridCols s - 1 ∧ 1 ≤ gridCols s ∧ gridCols s - 1 - col.toNat + col.toNat + 1 = gridCols s)
end

