-- ==== Sys2Proof/Laws/Decode.lean ====
section
/-! SUPPORT. What the fields of a command word are as numbers, and everything the decoder can answer. -/

namespace Sys2Proof

theorem opcodeField_toNat (w : Word) : (opcodeField w).toNat = w.toNat / 2 ^ 24 := by
  have := w.isLt
  simp only [opcodeField, BitVec.extractLsb'_toNat, Nat.shiftRight_eq_div_pow]
  omega

theorem operandField_toNat (w : Word) : (operandField w).toNat = w.toNat % 2 ^ 24 := by
  simp [operandField, BitVec.extractLsb'_toNat]

theorem upperField_toNat (w : Word) : (upperField w).toNat = w.toNat / 2 ^ 16 % 256 := by
  simp [upperField, BitVec.extractLsb'_toNat, Nat.shiftRight_eq_div_pow]

theorem middleField_toNat (w : Word) : (middleField w).toNat = w.toNat / 2 ^ 8 % 256 := by
  simp [middleField, BitVec.extractLsb'_toNat, Nat.shiftRight_eq_div_pow]

theorem lowerField_toNat (w : Word) : (lowerField w).toNat = w.toNat % 256 := by
  simp [lowerField, BitVec.extractLsb'_toNat]

theorem columnField_toNat (w : Word) : (columnField w).toNat = w.toNat % 65536 := by
  simp [columnField, BitVec.extractLsb'_toNat]

/-- Two bit vectors side by side, as a number. -/
theorem append_toNat {m n : Nat} (x : BitVec m) (y : BitVec n) : (x ++ y).toNat = x.toNat * 2 ^ n + y.toNat := by
  rw [BitVec.toNat_append, Nat.shiftLeft_eq, Nat.mul_comm, Nat.two_pow_add_eq_or_of_lt y.isLt]

/-- An operand of three bytes, high to low, as a number. -/
theorem bytes_toNat (a b c : Byte) : ((a ++ b ++ c : BitVec 24)).toNat = a.toNat * 2 ^ 16 + b.toNat * 2 ^ 8 + c.toNat := by
  rw [append_toNat, append_toNat]; omega

/-- The word of a command, as a number (R77's formulas). -/
theorem encode_toNat (i : Instr) :
    (encode i).toNat = (opcodeOf i).toNat * 2 ^ 24 + (operandOf i).toNat := append_toNat _ _

/-- Two bit vectors side by side are equal part by part. -/
theorem append_inj {m n : Nat} (a c : BitVec m) (b d : BitVec n) : a ++ b = c ++ d ↔ a = c ∧ b = d := by
  constructor
  · intro h
    have h1 := congrArg BitVec.toNat h
    rw [append_toNat, append_toNat] at h1
    have hb := b.isLt
    have hd := d.isLt
    have h2 : a.toNat = c.toNat := by
      have := congrArg (· / 2 ^ n) h1
      simpa [Nat.mul_comm _ (2 ^ n), Nat.mul_add_div, Nat.div_eq_of_lt hb, Nat.div_eq_of_lt hd] using this
    exact ⟨BitVec.eq_of_toNat_eq h2, BitVec.eq_of_toNat_eq (by rw [h2] at h1; omega)⟩
  · rintro ⟨rfl, rfl⟩; rfl

/-- AND of two bit vectors side by side goes part by part. -/
theorem append_and {m n : Nat} (a c : BitVec m) (b d : BitVec n) : (a ++ b) &&& (c ++ d) = (a &&& c) ++ (b &&& d) := by
  ext i hi
  simp only [BitVec.getElem_and, BitVec.getElem_append]
  split <;> rfl

/-- A word is its OPCODE and OPERAND fields (R70). -/
theorem word_eq_fields (w : Word) : w = opcodeField w ++ operandField w := by
  apply BitVec.eq_of_toNat_eq
  have := w.isLt
  rw [append_toNat, opcodeField_toNat, operandField_toNat]; omega

/-- A word is its OPCODE, its bits 23 to 16 and its low half (R71). -/
theorem word_eq_parts (w : Word) : w = opcodeField w ++ upperField w ++ columnField w := by
  apply BitVec.eq_of_toNat_eq
  have := w.isLt
  rw [append_toNat, append_toNat, opcodeField_toNat, upperField_toNat, columnField_toNat]; omega

/-- A field equals a constant when its number does. -/
theorem field_eq_iff {n : Nat} (x : BitVec n) {k : Nat} (hk : k < 2 ^ n) : x = BitVec.ofNat n k ↔ x.toNat = k := by
  constructor
  · rintro rfl; simp [Nat.mod_eq_of_lt hk]
  · intro h; apply BitVec.eq_of_toNat_eq; simp [h, Nat.mod_eq_of_lt hk]

/-- A lane of a word as a number (R54). -/
theorem laneOf_eq (w : Word) {k : Nat} (hk : k < 4) : laneOf w k = BitVec.ofNat 8 (w.toNat / 256 ^ k) := by
  apply BitVec.eq_of_toNat_eq
  simp only [laneOf, BitVec.extractLsb'_toNat, Nat.shiftRight_eq_div_pow, BitVec.toNat_ofNat]
  interval_cases k <;> simp

/-- The four lanes of a word make the word (R54). -/
theorem wordOfLanes_laneOf (w : Word) : wordOfLanes (laneOf w 0) (laneOf w 1) (laneOf w 2) (laneOf w 3) = w := by
  apply BitVec.eq_of_toNat_eq
  have := w.isLt
  simp only [wordOfLanes, append_toNat, laneOf, BitVec.extractLsb'_toNat, Nat.shiftRight_eq_div_pow]
  omega

/-- The bytes of a word decode as the word. -/
theorem decode_lanesOf (w : Word) : decode (lanesOf w) = .word (decodeWord w) := by
  simp only [decode, lanesOf, wordOfLanes_laneOf]

/-- Everything the decoder can answer, and what it says of the word's fields (R76). -/
theorem decodeWord_cases (w : Word) :
    (opcodeField w = 1 ∧ decodeWord w = .command (.luma (upperField w) (middleField w) (lowerField w))) ∨
    (opcodeField w = 2 ∧ decodeWord w = .command (.sat (upperField w) (middleField w) (lowerField w))) ∨
    (opcodeField w = 3 ∧ upperField w = 0 ∧ decodeWord w = .command (.qgrey (lowerField w) (middleField w))) ∨
    (opcodeField w = 4 ∧ decodeWord w = .command (.qcolor (upperField w) (middleField w) (lowerField w))) ∨
    (opcodeField w = 5 ∧ operandField w = 0 ∧ decodeWord w = .command .crop) ∨
    (opcodeField w = 6 ∧ upperField w = 0 ∧ decodeWord w = .command (.mirror (columnField w))) ∨
    (((opcodeField w = 3 ∧ upperField w ≠ 0) ∨ (opcodeField w = 5 ∧ operandField w ≠ 0) ∨
        (opcodeField w = 6 ∧ upperField w ≠ 0)) ∧ decodeWord w = .reservedField) ∨
    ((opcodeField w ≠ 1 ∧ opcodeField w ≠ 2 ∧ opcodeField w ≠ 3 ∧ opcodeField w ≠ 4 ∧ opcodeField w ≠ 5 ∧
        opcodeField w ≠ 6) ∧ decodeWord w = .illegalOpcode) := by
  unfold decodeWord
  split_ifs <;> simp_all

end Sys2Proof
end

