-- ==== Sys2Proof/Laws/Geometry.lean ====
section
/-! SUPPORT. Bounds of the crop computation (41_geometry.md R142, R143, R150) and the halves of a register as numbers. -/

namespace Sys2Proof.Machine

theorem lowHalf_toNat (w : Word) : (lowHalf w).toNat = w.toNat % 65536 := by
  simp [lowHalf, BitVec.extractLsb'_toNat]

theorem highHalf_toNat (w : Word) : (highHalf w).toNat = w.toNat / 65536 := by
  have := w.isLt
  simp only [highHalf, BitVec.extractLsb'_toNat, Nat.shiftRight_eq_div_pow]
  omega

/-- A packed register as a number, when both halves fit. -/
theorem packHalves_toNat {hi lo : Nat} (h1 : hi < 65536) (h2 : lo < 65536) :
    (packHalves hi lo).toNat = 65536 * hi + lo := by
  rw [packHalves, append_toNat, BitVec.toNat_ofNat, BitVec.toNat_ofNat]
  omega

theorem lowHalf_packHalves {hi lo : Nat} (h2 : lo < 65536) : (lowHalf (packHalves hi lo)).toNat = lo := by
  rw [lowHalf_toNat, packHalves, append_toNat, BitVec.toNat_ofNat, BitVec.toNat_ofNat]
  omega

theorem highHalf_packHalves {hi lo : Nat} (h1 : hi < 65536) : (highHalf (packHalves hi lo)).toNat = hi := by
  rw [highHalf_toNat, packHalves, append_toNat, BitVec.toNat_ofNat, BitVec.toNat_ofNat]
  omega

/-- A shrunk height is below the source height (R142). -/
theorem shrunkHeight_lt {sw sh gc gr a : Nat} (h : cropRhs gr sw < cropLhs a gc sh) : sw * 65536 * gr / (a * gc) < sh := by
  unfold cropRhs cropLhs at h
  have h0 : 0 < a * gc := by
    rcases Nat.eq_zero_or_pos (a * gc) with h1 | h1
    · simp [h1] at h
    · exact h1
  rw [Nat.div_lt_iff_lt_mul h0]
  calc sw * 65536 * gr = 65536 * gr * sw := by ring
    _ < a * gc * sh := h
    _ = sh * (a * gc) := by ring

/-- A shrunk width is below the source width (R142). -/
theorem shrunkWidth_lt {sw sh gc gr a : Nat} (h : cropLhs a gc sh < cropRhs gr sw) : cropLhs a gc sh / (65536 * gr) < sw := by
  have h' := h
  unfold cropRhs at h
  have h0 : 0 < 65536 * gr := by
    rcases Nat.eq_zero_or_pos (65536 * gr) with h1 | h1
    · simp [h1] at h
    · exact h1
  rw [Nat.div_lt_iff_lt_mul h0]
  calc cropLhs a gc sh < 65536 * gr * sw := h
    _ = sw * (65536 * gr) := by ring

/-- Everything the crop size can be (R142). -/
theorem cropSize_cases (sw sh gc gr a : Nat) :
    (cropRhs gr sw < cropLhs a gc sh ∧ cropSize sw sh gc gr a = (sw, sw * 65536 * gr / (a * gc))) ∨
    (cropLhs a gc sh < cropRhs gr sw ∧ cropSize sw sh gc gr a = (cropLhs a gc sh / (65536 * gr), sh)) ∨
    (cropLhs a gc sh = cropRhs gr sw ∧ cropSize sw sh gc gr a = (sw, sh)) := by
  unfold cropSize
  split_ifs with h1 h2
  · exact .inl ⟨h1, rfl⟩
  · exact .inr (.inl ⟨h2, rfl⟩)
  · exact .inr (.inr ⟨by omega, rfl⟩)

theorem cropSize_le (sw sh gc gr a : Nat) : (cropSize sw sh gc gr a).1 ≤ sw ∧ (cropSize sw sh gc gr a).2 ≤ sh := by
  rcases cropSize_cases sw sh gc gr a with ⟨h, e⟩ | ⟨h, e⟩ | ⟨_, e⟩
  · have := shrunkHeight_lt h; rw [e]; simp; omega
  · have := shrunkWidth_lt h; rw [e]; simp; omega
  · rw [e]; simp

theorem srcWidth_lt (s : State) : srcWidth s < 65536 := (lowHalf s.srcdim).isLt
theorem srcHeight_lt (s : State) : srcHeight s < 65536 := (highHalf s.srcdim).isLt
theorem gridCols_lt (s : State) : gridCols s < 65536 := (lowHalf s.griddim).isLt
theorem gridRows_lt (s : State) : gridRows s < 65536 := (highHalf s.griddim).isLt

theorem cropOf_le (s : State) : (cropOf s).1 ≤ srcWidth s ∧ (cropOf s).2 ≤ srcHeight s := cropSize_le _ _ _ _ _

/-- No input of CROP is zero (R145). -/
theorem cropDegenerate_eq_false (s : State) : cropDegenerate s = false ↔
    srcWidth s ≠ 0 ∧ srcHeight s ≠ 0 ∧ gridCols s ≠ 0 ∧ gridRows s ≠ 0 ∧ aspectA s ≠ 0 := by
  simp [cropDegenerate, and_assoc]

theorem cropDegenerate_eq_true (s : State) : cropDegenerate s = true ↔
    srcWidth s = 0 ∨ srcHeight s = 0 ∨ gridCols s = 0 ∨ gridRows s = 0 ∨ aspectA s = 0 := by
  simp [cropDegenerate, or_assoc]

end Sys2Proof.Machine
end

