-- ==== Sys2Proof/Laws/State.lean ====
section
/-! SUPPORT. One lemma per field per field update, so that no proof unfolds a record update. -/

namespace Sys2Proof.Machine

variable (s : State)

/-! ## setResult -/

@[simp] theorem State.setResult_result (v : Half) : (s.setResult v).result = v := rfl
@[simp] theorem State.setResult_status (v : Half) : (s.setResult v).status = s.status := rfl
@[simp] theorem State.setResult_faultInfo (v : Half) : (s.setResult v).faultInfo = s.faultInfo := rfl
@[simp] theorem State.setResult_satThr (v : Half) : (s.setResult v).satThr = s.satThr := rfl
@[simp] theorem State.setResult_srcdim (v : Half) : (s.setResult v).srcdim = s.srcdim := rfl
@[simp] theorem State.setResult_griddim (v : Half) : (s.setResult v).griddim = s.griddim := rfl
@[simp] theorem State.setResult_aspect (v : Half) : (s.setResult v).aspect = s.aspect := rfl
@[simp] theorem State.setResult_cropxy (v : Half) : (s.setResult v).cropxy = s.cropxy := rfl
@[simp] theorem State.setResult_cropwh (v : Half) : (s.setResult v).cropwh = s.cropwh := rfl
@[simp] theorem State.setResult_window (v : Half) : (s.setResult v).window = s.window := rfl
@[simp] theorem State.setResult_inReset (v : Half) : (s.setResult v).inReset = s.inReset := rfl
@[simp] theorem State.setResult_pending (v : Half) : (s.setResult v).pending = s.pending := rfl
@[simp] theorem State.setResult_answers (v : Half) : (s.setResult v).answers = s.answers := rfl

/-! ## setFaultRecord -/

@[simp] theorem State.setFaultRecord_result (c : FaultCause) (info : Word) : (s.setFaultRecord c info).result = s.result := rfl
@[simp] theorem State.setFaultRecord_status (c : FaultCause) (info : Word) : (s.setFaultRecord c info).status = { err := true, zcrop := s.status.zcrop, cause := some c } := rfl
@[simp] theorem State.setFaultRecord_faultInfo (c : FaultCause) (info : Word) : (s.setFaultRecord c info).faultInfo = info := rfl
@[simp] theorem State.setFaultRecord_satThr (c : FaultCause) (info : Word) : (s.setFaultRecord c info).satThr = s.satThr := rfl
@[simp] theorem State.setFaultRecord_srcdim (c : FaultCause) (info : Word) : (s.setFaultRecord c info).srcdim = s.srcdim := rfl
@[simp] theorem State.setFaultRecord_griddim (c : FaultCause) (info : Word) : (s.setFaultRecord c info).griddim = s.griddim := rfl
@[simp] theorem State.setFaultRecord_aspect (c : FaultCause) (info : Word) : (s.setFaultRecord c info).aspect = s.aspect := rfl
@[simp] theorem State.setFaultRecord_cropxy (c : FaultCause) (info : Word) : (s.setFaultRecord c info).cropxy = s.cropxy := rfl
@[simp] theorem State.setFaultRecord_cropwh (c : FaultCause) (info : Word) : (s.setFaultRecord c info).cropwh = s.cropwh := rfl
@[simp] theorem State.setFaultRecord_window (c : FaultCause) (info : Word) : (s.setFaultRecord c info).window = s.window := rfl
@[simp] theorem State.setFaultRecord_inReset (c : FaultCause) (info : Word) : (s.setFaultRecord c info).inReset = s.inReset := rfl
@[simp] theorem State.setFaultRecord_pending (c : FaultCause) (info : Word) : (s.setFaultRecord c info).pending = s.pending := rfl
@[simp] theorem State.setFaultRecord_answers (c : FaultCause) (info : Word) : (s.setFaultRecord c info).answers = s.answers := rfl

/-! ## setSatThr -/

@[simp] theorem State.setSatThr_result (v : Byte) : (s.setSatThr v).result = s.result := rfl
@[simp] theorem State.setSatThr_status (v : Byte) : (s.setSatThr v).status = s.status := rfl
@[simp] theorem State.setSatThr_faultInfo (v : Byte) : (s.setSatThr v).faultInfo = s.faultInfo := rfl
@[simp] theorem State.setSatThr_satThr (v : Byte) : (s.setSatThr v).satThr = v := rfl
@[simp] theorem State.setSatThr_srcdim (v : Byte) : (s.setSatThr v).srcdim = s.srcdim := rfl
@[simp] theorem State.setSatThr_griddim (v : Byte) : (s.setSatThr v).griddim = s.griddim := rfl
@[simp] theorem State.setSatThr_aspect (v : Byte) : (s.setSatThr v).aspect = s.aspect := rfl
@[simp] theorem State.setSatThr_cropxy (v : Byte) : (s.setSatThr v).cropxy = s.cropxy := rfl
@[simp] theorem State.setSatThr_cropwh (v : Byte) : (s.setSatThr v).cropwh = s.cropwh := rfl
@[simp] theorem State.setSatThr_window (v : Byte) : (s.setSatThr v).window = s.window := rfl
@[simp] theorem State.setSatThr_inReset (v : Byte) : (s.setSatThr v).inReset = s.inReset := rfl
@[simp] theorem State.setSatThr_pending (v : Byte) : (s.setSatThr v).pending = s.pending := rfl
@[simp] theorem State.setSatThr_answers (v : Byte) : (s.setSatThr v).answers = s.answers := rfl

/-! ## setSrcdim -/

@[simp] theorem State.setSrcdim_result (w : Word) : (s.setSrcdim w).result = s.result := rfl
@[simp] theorem State.setSrcdim_status (w : Word) : (s.setSrcdim w).status = s.status := rfl
@[simp] theorem State.setSrcdim_faultInfo (w : Word) : (s.setSrcdim w).faultInfo = s.faultInfo := rfl
@[simp] theorem State.setSrcdim_satThr (w : Word) : (s.setSrcdim w).satThr = s.satThr := rfl
@[simp] theorem State.setSrcdim_srcdim (w : Word) : (s.setSrcdim w).srcdim = w := rfl
@[simp] theorem State.setSrcdim_griddim (w : Word) : (s.setSrcdim w).griddim = s.griddim := rfl
@[simp] theorem State.setSrcdim_aspect (w : Word) : (s.setSrcdim w).aspect = s.aspect := rfl
@[simp] theorem State.setSrcdim_cropxy (w : Word) : (s.setSrcdim w).cropxy = s.cropxy := rfl
@[simp] theorem State.setSrcdim_cropwh (w : Word) : (s.setSrcdim w).cropwh = s.cropwh := rfl
@[simp] theorem State.setSrcdim_window (w : Word) : (s.setSrcdim w).window = s.window := rfl
@[simp] theorem State.setSrcdim_inReset (w : Word) : (s.setSrcdim w).inReset = s.inReset := rfl
@[simp] theorem State.setSrcdim_pending (w : Word) : (s.setSrcdim w).pending = s.pending := rfl
@[simp] theorem State.setSrcdim_answers (w : Word) : (s.setSrcdim w).answers = s.answers := rfl

/-! ## setGriddim -/

@[simp] theorem State.setGriddim_result (w : Word) : (s.setGriddim w).result = s.result := rfl
@[simp] theorem State.setGriddim_status (w : Word) : (s.setGriddim w).status = s.status := rfl
@[simp] theorem State.setGriddim_faultInfo (w : Word) : (s.setGriddim w).faultInfo = s.faultInfo := rfl
@[simp] theorem State.setGriddim_satThr (w : Word) : (s.setGriddim w).satThr = s.satThr := rfl
@[simp] theorem State.setGriddim_srcdim (w : Word) : (s.setGriddim w).srcdim = s.srcdim := rfl
@[simp] theorem State.setGriddim_griddim (w : Word) : (s.setGriddim w).griddim = w := rfl
@[simp] theorem State.setGriddim_aspect (w : Word) : (s.setGriddim w).aspect = s.aspect := rfl
@[simp] theorem State.setGriddim_cropxy (w : Word) : (s.setGriddim w).cropxy = s.cropxy := rfl
@[simp] theorem State.setGriddim_cropwh (w : Word) : (s.setGriddim w).cropwh = s.cropwh := rfl
@[simp] theorem State.setGriddim_window (w : Word) : (s.setGriddim w).window = s.window := rfl
@[simp] theorem State.setGriddim_inReset (w : Word) : (s.setGriddim w).inReset = s.inReset := rfl
@[simp] theorem State.setGriddim_pending (w : Word) : (s.setGriddim w).pending = s.pending := rfl
@[simp] theorem State.setGriddim_answers (w : Word) : (s.setGriddim w).answers = s.answers := rfl

/-! ## setAspect -/

@[simp] theorem State.setAspect_result (w : Word) : (s.setAspect w).result = s.result := rfl
@[simp] theorem State.setAspect_status (w : Word) : (s.setAspect w).status = s.status := rfl
@[simp] theorem State.setAspect_faultInfo (w : Word) : (s.setAspect w).faultInfo = s.faultInfo := rfl
@[simp] theorem State.setAspect_satThr (w : Word) : (s.setAspect w).satThr = s.satThr := rfl
@[simp] theorem State.setAspect_srcdim (w : Word) : (s.setAspect w).srcdim = s.srcdim := rfl
@[simp] theorem State.setAspect_griddim (w : Word) : (s.setAspect w).griddim = s.griddim := rfl
@[simp] theorem State.setAspect_aspect (w : Word) : (s.setAspect w).aspect = w := rfl
@[simp] theorem State.setAspect_cropxy (w : Word) : (s.setAspect w).cropxy = s.cropxy := rfl
@[simp] theorem State.setAspect_cropwh (w : Word) : (s.setAspect w).cropwh = s.cropwh := rfl
@[simp] theorem State.setAspect_window (w : Word) : (s.setAspect w).window = s.window := rfl
@[simp] theorem State.setAspect_inReset (w : Word) : (s.setAspect w).inReset = s.inReset := rfl
@[simp] theorem State.setAspect_pending (w : Word) : (s.setAspect w).pending = s.pending := rfl
@[simp] theorem State.setAspect_answers (w : Word) : (s.setAspect w).answers = s.answers := rfl

/-! ## setCrop -/

@[simp] theorem State.setCrop_result (xy wh : Word) (z : Bool) : (s.setCrop xy wh z).result = s.result := rfl
@[simp] theorem State.setCrop_status (xy wh : Word) (z : Bool) : (s.setCrop xy wh z).status = { err := s.status.err, zcrop := z, cause := s.status.cause } := rfl
@[simp] theorem State.setCrop_faultInfo (xy wh : Word) (z : Bool) : (s.setCrop xy wh z).faultInfo = s.faultInfo := rfl
@[simp] theorem State.setCrop_satThr (xy wh : Word) (z : Bool) : (s.setCrop xy wh z).satThr = s.satThr := rfl
@[simp] theorem State.setCrop_srcdim (xy wh : Word) (z : Bool) : (s.setCrop xy wh z).srcdim = s.srcdim := rfl
@[simp] theorem State.setCrop_griddim (xy wh : Word) (z : Bool) : (s.setCrop xy wh z).griddim = s.griddim := rfl
@[simp] theorem State.setCrop_aspect (xy wh : Word) (z : Bool) : (s.setCrop xy wh z).aspect = s.aspect := rfl
@[simp] theorem State.setCrop_cropxy (xy wh : Word) (z : Bool) : (s.setCrop xy wh z).cropxy = xy := rfl
@[simp] theorem State.setCrop_cropwh (xy wh : Word) (z : Bool) : (s.setCrop xy wh z).cropwh = wh := rfl
@[simp] theorem State.setCrop_window (xy wh : Word) (z : Bool) : (s.setCrop xy wh z).window = s.window := rfl
@[simp] theorem State.setCrop_inReset (xy wh : Word) (z : Bool) : (s.setCrop xy wh z).inReset = s.inReset := rfl
@[simp] theorem State.setCrop_pending (xy wh : Word) (z : Bool) : (s.setCrop xy wh z).pending = s.pending := rfl
@[simp] theorem State.setCrop_answers (xy wh : Word) (z : Bool) : (s.setCrop xy wh z).answers = s.answers := rfl

/-! ## setPending -/

@[simp] theorem State.setPending_result (l : List HostEvent) : (s.setPending l).result = s.result := rfl
@[simp] theorem State.setPending_status (l : List HostEvent) : (s.setPending l).status = s.status := rfl
@[simp] theorem State.setPending_faultInfo (l : List HostEvent) : (s.setPending l).faultInfo = s.faultInfo := rfl
@[simp] theorem State.setPending_satThr (l : List HostEvent) : (s.setPending l).satThr = s.satThr := rfl
@[simp] theorem State.setPending_srcdim (l : List HostEvent) : (s.setPending l).srcdim = s.srcdim := rfl
@[simp] theorem State.setPending_griddim (l : List HostEvent) : (s.setPending l).griddim = s.griddim := rfl
@[simp] theorem State.setPending_aspect (l : List HostEvent) : (s.setPending l).aspect = s.aspect := rfl
@[simp] theorem State.setPending_cropxy (l : List HostEvent) : (s.setPending l).cropxy = s.cropxy := rfl
@[simp] theorem State.setPending_cropwh (l : List HostEvent) : (s.setPending l).cropwh = s.cropwh := rfl
@[simp] theorem State.setPending_window (l : List HostEvent) : (s.setPending l).window = s.window := rfl
@[simp] theorem State.setPending_inReset (l : List HostEvent) : (s.setPending l).inReset = s.inReset := rfl
@[simp] theorem State.setPending_pending (l : List HostEvent) : (s.setPending l).pending = l := rfl
@[simp] theorem State.setPending_answers (l : List HostEvent) : (s.setPending l).answers = s.answers := rfl

/-! ## setInReset -/

@[simp] theorem State.setInReset_result (b : Bool) : (s.setInReset b).result = s.result := rfl
@[simp] theorem State.setInReset_status (b : Bool) : (s.setInReset b).status = s.status := rfl
@[simp] theorem State.setInReset_faultInfo (b : Bool) : (s.setInReset b).faultInfo = s.faultInfo := rfl
@[simp] theorem State.setInReset_satThr (b : Bool) : (s.setInReset b).satThr = s.satThr := rfl
@[simp] theorem State.setInReset_srcdim (b : Bool) : (s.setInReset b).srcdim = s.srcdim := rfl
@[simp] theorem State.setInReset_griddim (b : Bool) : (s.setInReset b).griddim = s.griddim := rfl
@[simp] theorem State.setInReset_aspect (b : Bool) : (s.setInReset b).aspect = s.aspect := rfl
@[simp] theorem State.setInReset_cropxy (b : Bool) : (s.setInReset b).cropxy = s.cropxy := rfl
@[simp] theorem State.setInReset_cropwh (b : Bool) : (s.setInReset b).cropwh = s.cropwh := rfl
@[simp] theorem State.setInReset_window (b : Bool) : (s.setInReset b).window = s.window := rfl
@[simp] theorem State.setInReset_inReset (b : Bool) : (s.setInReset b).inReset = b := rfl
@[simp] theorem State.setInReset_pending (b : Bool) : (s.setInReset b).pending = s.pending := rfl
@[simp] theorem State.setInReset_answers (b : Bool) : (s.setInReset b).answers = s.answers := rfl

/-! ## answer -/

@[simp] theorem State.answer_result (d : BusData) : (s.answer d).result = s.result := rfl
@[simp] theorem State.answer_status (d : BusData) : (s.answer d).status = s.status := rfl
@[simp] theorem State.answer_faultInfo (d : BusData) : (s.answer d).faultInfo = s.faultInfo := rfl
@[simp] theorem State.answer_satThr (d : BusData) : (s.answer d).satThr = s.satThr := rfl
@[simp] theorem State.answer_srcdim (d : BusData) : (s.answer d).srcdim = s.srcdim := rfl
@[simp] theorem State.answer_griddim (d : BusData) : (s.answer d).griddim = s.griddim := rfl
@[simp] theorem State.answer_aspect (d : BusData) : (s.answer d).aspect = s.aspect := rfl
@[simp] theorem State.answer_cropxy (d : BusData) : (s.answer d).cropxy = s.cropxy := rfl
@[simp] theorem State.answer_cropwh (d : BusData) : (s.answer d).cropwh = s.cropwh := rfl
@[simp] theorem State.answer_window (d : BusData) : (s.answer d).window = s.window := rfl
@[simp] theorem State.answer_inReset (d : BusData) : (s.answer d).inReset = s.inReset := rfl
@[simp] theorem State.answer_pending (d : BusData) : (s.answer d).pending = s.pending := rfl
@[simp] theorem State.answer_answers (d : BusData) : (s.answer d).answers = s.answers ++ [d] := rfl

/-! ## resetRegisters -/

@[simp] theorem State.resetRegisters_result : (s.resetRegisters).result = 0 := rfl
@[simp] theorem State.resetRegisters_status : (s.resetRegisters).status = { err := false, zcrop := false, cause := none } := rfl
@[simp] theorem State.resetRegisters_faultInfo : (s.resetRegisters).faultInfo = 0 := rfl
@[simp] theorem State.resetRegisters_satThr : (s.resetRegisters).satThr = 0x40 := rfl
@[simp] theorem State.resetRegisters_srcdim : (s.resetRegisters).srcdim = 0 := rfl
@[simp] theorem State.resetRegisters_griddim : (s.resetRegisters).griddim = 0 := rfl
@[simp] theorem State.resetRegisters_aspect : (s.resetRegisters).aspect = 0 := rfl
@[simp] theorem State.resetRegisters_cropxy : (s.resetRegisters).cropxy = 0 := rfl
@[simp] theorem State.resetRegisters_cropwh : (s.resetRegisters).cropwh = 0 := rfl
@[simp] theorem State.resetRegisters_window : (s.resetRegisters).window = s.window := rfl
@[simp] theorem State.resetRegisters_inReset : (s.resetRegisters).inReset = s.inReset := rfl
@[simp] theorem State.resetRegisters_pending : (s.resetRegisters).pending = s.pending := rfl
@[simp] theorem State.resetRegisters_answers : (s.resetRegisters).answers = s.answers := rfl

end Sys2Proof.Machine
end

