-- ==== Sys2Proof/Laws/Ops.lean ====
section
/-! SUPPORT. One lemma for each shared operation over the registers and the window, saying everything it can do. -/

namespace Sys2Proof.Machine

/-! ## The register map -/

theorem mem_allRegs (r : Reg) : r ∈ allRegs := by cases r <;> decide

theorem regOffset_bounds (r : Reg) : regOffset r % 4 = 0 ∧ regOffset r ≤ 0x24 := by cases r <;> decide

theorem regOffset_injective {r q : Reg} (h : regOffset r = regOffset q) : r = q := by
  cases r <;> cases q <;> first | rfl | exact absurd h (by decide)

theorem regAt_regOffset (r : Reg) : regAt (regOffset r) = some r := by cases r <;> decide

theorem regAt_eq_some {off : Nat} {r : Reg} : regAt off = some r ↔ off = regOffset r := by
  constructor
  · intro h
    have := List.find?_some h
    simp only [beq_iff_eq] at this
    exact this.symm
  · rintro rfl; exact regAt_regOffset r

/-- Legality of an access, once and for all (R53). -/
theorem legalReg_eq_some {off : Nat} {t : Transfer} {r : Reg} :
    legalReg off t = some r ↔ transferWidth t = .word ∧ off = regOffset r ∧ allows r t = true := by
  unfold legalReg
  split_ifs with h
  · simp only [Option.filter_eq_some_iff, regAt_eq_some]
    exact ⟨fun h' => ⟨h.1, h'⟩, fun h' => h'.2⟩
  · constructor
    · simp
    · rintro ⟨hw, rfl, _⟩; exact absurd ⟨hw, (regOffset_bounds r).1⟩ h

/-! ## Addresses -/

theorem offsetOf_eq_some {s : State} {addr off : Nat} : s.offsetOf addr = some off ↔ off < 64 ∧ addr = s.base + off := by
  unfold State.offsetOf Config.windowBytes
  split_ifs with h
  · simp only [Option.some.injEq]; omega
  · simp; omega

theorem offsetOf_eq_none {s : State} {addr : Nat} : s.offsetOf addr = none ↔ addr < s.base ∨ s.base + 64 ≤ addr := by
  unfold State.offsetOf Config.windowBytes
  split_ifs with h
  · simp; omega
  · simp; omega

/-- States with the same window decode addresses alike. -/
theorem base_congr {s t : State} (h : t.window = s.window) : t.base = s.base := by simp [State.base, h]

theorem offsetOf_congr {s t : State} (h : t.window = s.window) (addr : Nat) : t.offsetOf addr = s.offsetOf addr := by
  simp [State.offsetOf, base_congr h]

/-- The byte of a readable register (R54). -/
theorem windowByte_reg (s : State) {r : Reg} {k : Nat} (hr : r ≠ .cmd) (hk : k < 4) :
    windowByte s (s.base + regOffset r + k) = some (laneOf (readReg r s) k) := by
  have hb := regOffset_bounds r
  have ho : s.offsetOf (s.base + regOffset r + k) = some (regOffset r + k) := offsetOf_eq_some.2 (by omega)
  have h1 : (regOffset r + k) % 4 = k := by omega
  have h2 : regOffset r + k - k = regOffset r := by omega
  have h3 : readable r = true := by cases r <;> first | rfl | exact absurd rfl hr
  have h4 : (some r).filter readable = some r := by simp [Option.filter, h3]
  simp only [windowByte, ho, h1, h2, regAt_regOffset, h4]

/-- A byte of the window is a lane of a readable register, or there is none (R54). -/
theorem windowByte_cases (s : State) (a : Nat) :
    windowByte s a = none ∨ ∃ r k, r ≠ .cmd ∧ k < 4 ∧ a = s.base + regOffset r + k ∧
      windowByte s a = some (laneOf (readReg r s) k) := by
  unfold windowByte
  cases ho : s.offsetOf a with
  | none => exact .inl rfl
  | some off =>
    cases hr : (regAt (off - off % 4)).filter readable with
    | none => exact .inl (by simp [hr])
    | some r =>
      have h1 := offsetOf_eq_some.1 ho
      have h2 := hr
      rw [Option.filter_eq_some_iff, regAt_eq_some] at hr
      refine .inr ⟨r, off % 4, ?_, by omega, by omega, by simp only [h2]⟩
      rintro rfl; exact absurd hr.2 (by decide)

/-! ## Registers -/

/-- A read of each register after each register write (R38). -/
theorem readReg_writeReg_ne {r q : Reg} (w : Word) (s : State) (h : q ≠ r) : readReg q (writeReg r w s) = readReg q s := by
  cases r <;> cases q <;> first | rfl | exact absurd rfl h

theorem readReg_setPending (r : Reg) (s : State) (l : List HostEvent) : readReg r (s.setPending l) = readReg r s := by
  cases r <;> rfl

theorem readReg_setInReset (r : Reg) (s : State) (b : Bool) : readReg r (s.setInReset b) = readReg r s := by
  cases r <;> rfl

theorem readReg_answer (r : Reg) (s : State) (d : BusData) : readReg r (s.answer d) = readReg r s := by
  cases r <;> rfl

theorem readReg_resetRegisters (r : Reg) (s : State) : readReg r s.resetRegisters = readReg r State.reset := by
  cases r <;> rfl

theorem readReg_setResult_ne {r : Reg} (s : State) (v : Half) (h : r ≠ .result) : readReg r (s.setResult v) = readReg r s := by
  cases r <;> first | rfl | exact absurd rfl h

theorem readReg_result_toNat (s : State) : (readReg .result s).toNat = s.result.toNat := by
  have := s.result.isLt
  simp only [readReg, BitVec.truncate_eq_setWidth, BitVec.toNat_setWidth]
  omega

/-- RESULT after a write of a number that fits (R25). -/
theorem readReg_setResult (s : State) {n : Nat} (h : n < 65536) :
    (readReg .result (s.setResult (BitVec.ofNat 16 n))).toNat = n := by
  rw [readReg_result_toNat]; simp [Nat.mod_eq_of_lt h]

theorem readReg_thresh_toNat (s : State) : (readReg .thresh s).toNat = s.satThr.toNat := by
  have := s.satThr.isLt
  simp only [readReg, BitVec.truncate_eq_setWidth, BitVec.toNat_setWidth]
  omega

/-- STATUS as a number: CAUSE times 16, ZCROP times 2, ERR (R26). -/
theorem statusWord_toNat (t : Status) :
    (statusWord t).toNat = 16 * (causeCode t.cause).toNat + 2 * t.zcrop.toNat + t.err.toNat := by
  simp only [statusWord, append_toNat, BitVec.toNat_ofBool, BitVec.ofNat_eq_ofNat, BitVec.toNat_ofNat]
  omega

theorem statusWord_err (t : Status) : (statusWord t).getLsbD 0 = t.err := by
  rcases t with ⟨e, z, c⟩
  cases e <;> cases z <;> rcases c with _ | c <;> first | rfl | (cases c <;> rfl)

theorem statusWord_zcrop (t : Status) : (statusWord t).getLsbD 1 = t.zcrop := by
  rcases t with ⟨e, z, c⟩
  cases e <;> cases z <;> rcases c with _ | c <;> first | rfl | (cases c <;> rfl)

/-! ## Faults -/

/-- Everything recording a fault can do (R172). -/
theorem raiseFault_cases (c : FaultCause) (info : Word) (s : State) :
    (s.status.err = true ∧ raiseFault c info s = s) ∨
    (s.status.err = false ∧ raiseFault c info s = s.setFaultRecord c info) := by
  unfold raiseFault
  cases h : s.status.err <;> simp

/-- After a fault is recorded ERR is 1 (R172). -/
theorem raiseFault_err (c : FaultCause) (info : Word) (s : State) : (raiseFault c info s).status.err = true := by
  rcases raiseFault_cases c info s with ⟨h, e⟩ | ⟨_, e⟩ <;> simp [e]
  exact h

/-- Recording a fault writes STATUS and FAULTINFO and nothing else (R172). -/
theorem raiseFault_readReg {r : Reg} (c : FaultCause) (info : Word) (s : State) (h1 : r ≠ .status) (h2 : r ≠ .faultInfo) :
    readReg r (raiseFault c info s) = readReg r s := by
  rcases raiseFault_cases c info s with ⟨_, e⟩ | ⟨_, e⟩ <;> rw [e]
  cases r <;> first | rfl | exact absurd rfl h1 | exact absurd rfl h2

/-- Recording the same fault again changes nothing (R172). -/
theorem raiseFault_twice (c : FaultCause) (info : Word) (s : State) :
    raiseFault c info (raiseFault c info s) = raiseFault c info s := by
  have := raiseFault_err c info s
  generalize raiseFault c info s = u at this ⊢
  simp [raiseFault, this]

/-- Recording a fault in a state whose host has been heard: the registers do not see the host's list. -/
theorem readReg_raiseFault_setPending (r : Reg) (c : FaultCause) (info : Word) (s : State) (l : List HostEvent) :
    readReg r (raiseFault c info (s.setPending l)) = readReg r (raiseFault c info s) := by
  unfold raiseFault
  rw [State.setPending_status]
  cases s.status.err <;> cases r <;> rfl

/-- Recording a fault leaves the model's own fields and ZCROP (R172). -/
theorem raiseFault_rest (c : FaultCause) (info : Word) (s : State) :
    (raiseFault c info s).window = s.window ∧ (raiseFault c info s).inReset = s.inReset ∧
    (raiseFault c info s).pending = s.pending ∧ (raiseFault c info s).answers = s.answers ∧
    (raiseFault c info s).status.zcrop = s.status.zcrop := by
  rcases raiseFault_cases c info s with ⟨_, e⟩ | ⟨_, e⟩ <;> simp [e]

end Sys2Proof.Machine
end

