-- ==== Sys2Proof/Laws/Palette.lean ====
section
/-! SUPPORT. Bounds of the quantizer's functions and closed forms of its tables (40_quantizer.md R101 to R114). -/

namespace Sys2Proof.Machine

/-- A byte as a number. -/
theorem byte_le (b : Byte) : b.toNat ≤ 255 := by have := b.isLt; omega

theorem lumaOf_le {r g b : Nat} (hr : r ≤ 255) (hg : g ≤ 255) (hb : b ≤ 255) : lumaOf r g b ≤ 255 := by
  unfold lumaOf; omega

theorem satOf_le (r g b : Nat) : satOf r g b ≤ 255 := by
  unfold satOf
  split
  · omega
  · rename_i h
    rw [Nat.div_le_iff_le_mul_add_pred (Nat.pos_of_ne_zero h)]
    have : max r (max g b) - min r (min g b) ≤ max r (max g b) := Nat.sub_le _ _
    omega

theorem clampLevels_bounds (l : Nat) : 2 ≤ clampLevels l ∧ clampLevels l ≤ 26 := by
  unfold clampLevels; omega

/-- The scaled luma is a level (R105). -/
theorem scaledLuma_lt {y l : Nat} (hy : y ≤ 255) (hl : 0 < l) : scaledLuma y l < l := by
  unfold scaledLuma
  rw [Nat.div_lt_iff_lt_mul (by omega)]
  calc y * l ≤ 255 * l := Nat.mul_le_mul_right l hy
    _ < l * 256 := by omega

/-- The grey-ramp index stays in the ramp (R105). -/
theorem greyIndex_le {y : Nat} (l : Nat) (hy : y ≤ 255) : greyIndex y l ≤ 25 := by
  have hb := clampLevels_bounds l
  have hs := scaledLuma_lt (l := clampLevels l) hy (by omega)
  unfold greyIndex
  split
  · omega
  · rw [Nat.div_le_iff_le_mul_add_pred (by omega)]; omega

/-- The grey ramp entry by entry (R35). -/
theorem greyEntry_eq {k : Nat} (hk : k ≤ 25) : greyEntry k = if k = 0 then 16 else if k = 25 then 231 else 231 + k := by
  have h : ∀ k ≤ 25, greyEntry k = if k = 0 then 16 else if k = 25 then 231 else 231 + k := by decide
  exact h k hk

theorem greyEntry_mem {k : Nat} (hk : k ≤ 25) : greyEntry k ∈ romGrey := by
  have h : ∀ k ≤ 25, greyEntry k ∈ romGrey := by decide
  exact h k hk

theorem romGrey_bounds {x : Nat} (hx : x ∈ romGrey) : 16 ≤ x ∧ x ≤ 255 := by
  have h : ∀ x ∈ romGrey, 16 ≤ x ∧ x ≤ 255 := by decide
  exact h x hx

theorem quantizeGrey_bounds {y : Nat} (l : Nat) (hy : y ≤ 255) : 16 ≤ quantizeGrey y l ∧ quantizeGrey y l ≤ 255 :=
  romGrey_bounds (greyEntry_mem (greyIndex_le l hy))

/-- The cube coordinate as intervals of the channel value (R107). -/
theorem cubeCoord_eq (c : Nat) : cubeCoord c =
    if c < 48 then 0 else if c < 115 then 1 else if c < 155 then 2 else if c < 195 then 3 else if c < 235 then 4 else 5 := by
  simp only [cubeCoord, romT, List.countP_cons, List.countP_nil, decide_eq_true_eq]
  split_ifs <;> omega

theorem cubeCoord_le (c : Nat) : cubeCoord c ≤ 5 := by
  rw [cubeCoord_eq]; split_ifs <;> omega

theorem cubeIndex_bounds (r g b : Nat) : 16 ≤ cubeIndex r g b ∧ cubeIndex r g b ≤ 231 := by
  have := cubeCoord_le r; have := cubeCoord_le g; have := cubeCoord_le b
  unfold cubeIndex; omega

theorem quantizeColor_bounds {r g b : Nat} (thr : Nat) (hr : r ≤ 255) (hg : g ≤ 255) (hb : b ≤ 255) :
    16 ≤ quantizeColor r g b thr ∧ quantizeColor r g b thr ≤ 255 := by
  unfold quantizeColor
  split
  · exact quantizeGrey_bounds 26 (lumaOf_le hr hg hb)
  · have := cubeIndex_bounds r g b; omega

end Sys2Proof.Machine
end

