-- ==== Sys2Proof/Laws/PerInstr.lean ====
section
/-! SUPPORT. Statements about every command as syntax, one lemma per constructor. -/

namespace Sys2Proof.Laws.EncodedFields

/-- The word of a command holds the command's opcode in OPCODE and its operand layout in OPERAND (R70, R71, R73). -/
def Statement (i : Instr) : Prop := opcodeField (encode i) = opcodeOf i ∧ operandField (encode i) = operandOf i

/-- The fields of opcode and operand side by side. -/
theorem of_any (i : Instr) : Statement i := by
  have h := encode_toNat i
  have h1 := (operandOf i).isLt
  have h2 := (opcodeOf i).isLt
  constructor
  · apply BitVec.eq_of_toNat_eq; rw [opcodeField_toNat, h]; omega
  · apply BitVec.eq_of_toNat_eq; rw [operandField_toNat, h]; omega

theorem luma (r g b : Byte) : Statement (.luma r g b) := of_any _
theorem sat (r g b : Byte) : Statement (.sat r g b) := of_any _
theorem qgrey (y l : Byte) : Statement (.qgrey y l) := of_any _
theorem qcolor (r g b : Byte) : Statement (.qcolor r g b) := of_any _
theorem crop : Statement .crop := of_any _
theorem mirror (col : Half) : Statement (.mirror col) := of_any _

end Sys2Proof.Laws.EncodedFields
end

