-- ==== Sys2Proof/Laws/Step.lean ====
section
/-! SUPPORT. What a command and a step can do, said once. -/

namespace Sys2Proof.Machine

/-! ## Commands -/

/-- Everything a command can do: RESULT is written, the crop registers are written, or a fault is recorded (R76). -/
theorem exec_cases {i : Instr} {s t : State} (h : exec i s = .next t) :
    (i ≠ .crop ∧ (∀ col, i = .mirror col → col.toNat < gridCols s) ∧ ∃ v, t = s.setResult v) ∨
    (i = .crop ∧ cropDegenerate s = false ∧ t = storeCrop (cropOf s).1 (cropOf s).2 s) ∨
    (i = .crop ∧ cropDegenerate s = true ∧ t = raiseFault .geomOperand (encode .crop) s) ∨
    (∃ col, i = .mirror col ∧ gridCols s ≤ col.toNat ∧ t = raiseFault .mirrorRange (encode (.mirror col)) s) := by
  cases i with
  | luma r g b => exact .inl ⟨by simp, by simp, _, (Host.Outcome.next.inj h).symm⟩
  | sat r g b => exact .inl ⟨by simp, by simp, _, (Host.Outcome.next.inj h).symm⟩
  | qgrey y l => exact .inl ⟨by simp, by simp, _, (Host.Outcome.next.inj h).symm⟩
  | qcolor r g b => exact .inl ⟨by simp, by simp, _, (Host.Outcome.next.inj h).symm⟩
  | crop =>
    simp only [exec, execCrop] at h
    split at h
    · rename_i hd; exact .inr (.inr (.inl ⟨rfl, hd, (Host.Outcome.next.inj h).symm⟩))
    · rename_i hd; exact .inr (.inl ⟨rfl, by simpa using hd, (Host.Outcome.next.inj h).symm⟩)
  | mirror col =>
    simp only [exec, execMirror] at h
    split at h
    · rename_i hd; exact .inr (.inr (.inr ⟨col, rfl, hd, (Host.Outcome.next.inj h).symm⟩))
    · rename_i hd
      refine .inl ⟨by simp, ?_, _, (Host.Outcome.next.inj h).symm⟩
      intro c hc; cases hc; omega

/-- CROP with nonzero inputs (R144). -/
theorem exec_crop_eq {s : State} (h : cropDegenerate s = false) :
    exec .crop s = .next (storeCrop (cropOf s).1 (cropOf s).2 s) := by
  simp [exec, execCrop, h]

/-- CROP with a zero input (R145). -/
theorem exec_crop_degenerate {s : State} (h : cropDegenerate s = true) :
    exec .crop s = .next (raiseFault .geomOperand (encode .crop) s) := by
  simp [exec, execCrop, h]

/-- MIRROR below GC (R148). -/
theorem exec_mirror_eq {col : Half} {s : State} (h : col.toNat < gridCols s) :
    exec (.mirror col) s = .next (s.setResult (BitVec.ofNat 16 (gridCols s - 1 - col.toNat))) := by
  simp [exec, execMirror, Nat.not_le.2 h]

/-- MIRROR at or above GC (R149). -/
theorem exec_mirror_range {col : Half} {s : State} (h : gridCols s ≤ col.toNat) :
    exec (.mirror col) s = .next (raiseFault .mirrorRange (encode (.mirror col)) s) := by
  simp [exec, execMirror, h]

/-- What a successful CROP leaves in its registers' fields (R144). -/
theorem storeCrop_fields {w h : Nat} {s : State} (hw : w ≤ srcWidth s) (hh : h ≤ srcHeight s) :
    cropX (storeCrop w h s) = (srcWidth s - w) / 2 ∧ cropY (storeCrop w h s) = (srcHeight s - h) / 2 ∧
    cropW (storeCrop w h s) = w ∧ cropH (storeCrop w h s) = h := by
  have := srcWidth_lt s
  have := srcHeight_lt s
  refine ⟨?_, ?_, ?_, ?_⟩
  · exact lowHalf_packHalves (by unfold centreOffset; omega)
  · exact highHalf_packHalves (by unfold centreOffset; omega)
  · exact lowHalf_packHalves (by omega)
  · exact highHalf_packHalves (by omega)

/-- A command leaves the model's own fields. -/
theorem exec_hostSide {i : Instr} {s t : State} (h : exec i s = .next t) : KeepsHostSide s t := by
  rcases exec_cases h with ⟨_, _, v, rfl⟩ | ⟨_, _, rfl⟩ | ⟨_, _, rfl⟩ | ⟨col, _, _, rfl⟩
  · exact ⟨rfl, rfl, rfl, rfl⟩
  · exact ⟨rfl, rfl, rfl, rfl⟩
  · have := raiseFault_rest .geomOperand (encode .crop) s
    exact ⟨this.1, this.2.1, this.2.2.1, this.2.2.2.1⟩
  · have := raiseFault_rest .mirrorRange (encode (.mirror col)) s
    exact ⟨this.1, this.2.1, this.2.2.1, this.2.2.2.1⟩

/-- Everything a command word can do (R76). -/
theorem executeWord_cases {w : Word} {s t : State} (h : executeWord w s = .next t) :
    (∃ i, decodeWord w = .command i ∧ exec i s = .next t) ∨
    (decodeWord w = .illegalOpcode ∧ t = raiseFault .illegalOpcode w s) ∨
    (decodeWord w = .reservedField ∧ t = raiseFault .reservedField w s) := by
  unfold executeWord at h
  split at h
  · rename_i i hi; exact .inl ⟨i, hi, h⟩
  · rename_i hi; exact .inr (.inl ⟨hi, (Host.Outcome.next.inj h).symm⟩)
  · rename_i hi; exact .inr (.inr ⟨hi, (Host.Outcome.next.inj h).symm⟩)

/-! ## Accesses -/

/-- An illegal access (R55). -/
theorem accessAt_illegal {off : Nat} {x : Transfer} {s : State} (h : legalReg off x = none) :
    accessAt off x s = .next (illegalAccess off x s) := by
  simp only [accessAt, h]

/-- A legal write to CMD (R52). -/
theorem accessAt_command (w : Word) (s : State) : accessAt 0 (.write (.word w)) s = executeWord w s := by
  have h : legalReg 0 (.write (.word w)) = some .cmd := legalReg_eq_some.2 ⟨rfl, rfl, rfl⟩
  simp only [accessAt, h, legalWrite, dataWord]

/-- A legal write to a register that stores (R52). -/
theorem accessAt_write {r : Reg} (w : Word) (s : State) (hr : r ≠ .cmd) (hw : writable r = true) :
    accessAt (regOffset r) (.write (.word w)) s = .next (writeReg r w s) := by
  have h : legalReg (regOffset r) (.write (.word w)) = some r := legalReg_eq_some.2 ⟨rfl, rfl, hw⟩
  simp only [accessAt, h, dataWord]
  cases r <;> first | rfl | exact absurd rfl hr

/-- A legal read (R52). -/
theorem accessAt_read {r : Reg} (s : State) (hr : r ≠ .cmd) :
    accessAt (regOffset r) (.read .word) s = .next (s.answer (.word (readReg r s))) := by
  have hw : readable r = true := by cases r <;> first | rfl | exact absurd rfl hr
  have h : legalReg (regOffset r) (.read .word) = some r := legalReg_eq_some.2 ⟨rfl, rfl, hw⟩
  simp only [accessAt, h]

/-- Everything an access in the window can do (R52). -/
theorem accessAt_cases {off : Nat} {x : Transfer} {s t : State} (h : accessAt off x s = .next t) :
    (legalReg off x = none ∧ t = illegalAccess off x s) ∨
    (off = 0 ∧ ∃ w, x = .write (.word w) ∧ executeWord w s = .next t) ∨
    (∃ r w, r ≠ .cmd ∧ writable r = true ∧ off = regOffset r ∧ x = .write (.word w) ∧ t = writeReg r w s) ∨
    (∃ r, r ≠ .cmd ∧ off = regOffset r ∧ x = .read .word ∧ t = s.answer (.word (readReg r s))) := by
  cases hl : legalReg off x with
  | none => rw [accessAt_illegal hl] at h; exact .inl ⟨rfl, (Host.Outcome.next.inj h).symm⟩
  | some r =>
    obtain ⟨hw, rfl, ha⟩ := legalReg_eq_some.1 hl
    cases x with
    | read n =>
      have hn : n = .word := hw
      subst hn
      have hr : r ≠ .cmd := by rintro rfl; exact absurd ha (by decide)
      rw [accessAt_read s hr] at h
      exact .inr (.inr (.inr ⟨r, hr, rfl, rfl, (Host.Outcome.next.inj h).symm⟩))
    | write d =>
      cases d with
      | byte v => exact absurd hw (by simp [transferWidth, dataWidth])
      | half v => exact absurd hw (by simp [transferWidth, dataWidth])
      | word w =>
        by_cases hr : r = .cmd
        · subst hr; exact .inr (.inl ⟨rfl, w, rfl, by rw [← accessAt_command]; exact h⟩)
        · have hwr : writable r = true := ha
          rw [accessAt_write w s hr hwr] at h
          exact .inr (.inr (.inl ⟨r, w, hr, hwr, rfl, rfl, (Host.Outcome.next.inj h).symm⟩))

/-- What an illegal access does beside recording its fault (R55). -/
theorem illegalAccess_eq (off : Nat) (x : Transfer) (s : State) :
    illegalAccess off x s = raiseFault .busAccess (busInfo off x) s ∨
    ∃ d, illegalAccess off x s = (raiseFault .busAccess (busInfo off x) s).answer d := by
  cases x with
  | read n => exact .inr ⟨_, rfl⟩
  | write d => exact .inl rfl

/-! ## Steps -/

/-- A step that takes an access in the window (R52). -/
theorem step_presents {s : State} {off : Nat} {x : Transfer} (h : Presents s off x) :
    step s = accessAt off x (s.setPending s.pending.tail) := by
  obtain ⟨ho, hr, hp⟩ := h
  cases hl : s.pending with
  | nil => simp [hl] at hp
  | cons e rest =>
    rw [hl] at hp
    simp only [List.head?_cons, Option.some.injEq] at hp
    subst hp
    have h1 : (s.setPending rest).offsetOf (s.base + off) = some off := offsetOf_eq_some.2 ⟨ho, rfl⟩
    simp [step, nextEvent, hl, hostEvent, hostAccess, h1, hr]

/-- A step that takes the assertion of reset (R200). -/
theorem step_assertReset {s : State} (h : PresentsReset s) :
    step s = .next ((s.setPending s.pending.tail).resetRegisters.setInReset true) := by
  cases hl : s.pending with
  | nil => simp [PresentsReset, hl] at h
  | cons e rest =>
    simp only [PresentsReset, hl, List.head?_cons, Option.some.injEq] at h
    subst h
    simp [step, nextEvent, hl, hostEvent]

/-- Everything a step can do (R20, R52, R200, R203). -/
theorem step_cases {s t : State} (h : step s = .next t) :
    (s.pending = [] ∧ t = s) ∨
    (PresentsReset s ∧ t = (s.setPending s.pending.tail).resetRegisters.setInReset true) ∨
    (s.pending.head? = some .releaseReset ∧ t = (s.setPending s.pending.tail).setInReset false) ∨
    ((∃ a, s.pending.head? = some (.access a) ∧ s.offsetOf a.addr = none) ∧ t = s.setPending s.pending.tail) ∨
    (∃ off x, Presents s off x ∧ accessAt off x (s.setPending s.pending.tail) = .next t) := by
  cases hl : s.pending with
  | nil => simp only [step, nextEvent, hl] at h; exact .inl ⟨rfl, (Host.Outcome.next.inj h).symm⟩
  | cons e rest =>
    refine .inr ?_
    simp only [step, nextEvent, hl] at h
    cases e with
    | assertReset => exact .inl ⟨by simp [PresentsReset, hl], (Host.Outcome.next.inj h).symm⟩
    | releaseReset => exact .inr (.inl ⟨rfl, (Host.Outcome.next.inj h).symm⟩)
    | access a =>
      simp only [hostEvent, hostAccess] at h
      cases ho : (s.setPending rest).offsetOf a.addr with
      | none =>
        rw [ho] at h
        exact .inr (.inr (.inl ⟨⟨a, rfl, ho⟩, (Host.Outcome.next.inj h).symm⟩))
      | some off =>
        rw [ho] at h
        cases hr : s.inReset with
        | true => simp [hr] at h
        | false =>
          simp only [State.setPending_inReset, hr, Bool.false_eq_true, if_false] at h
          have h1 := offsetOf_eq_some.1 ho
          have h2 : (s.setPending rest).base = s.base := rfl
          refine .inr (.inr (.inr ⟨off, a.transfer, ⟨h1.1, hr, ?_⟩, h⟩))
          rw [hl, ← h2, ← h1.2]; rfl

/-- Two things the host presents next are one. -/
theorem presents_unique {s : State} {off off' : Nat} {x x' : Transfer} (h : Presents s off x) (h' : Presents s off' x') :
    off = off' ∧ x = x' := by
  have := h.2.2.symm.trans h'.2.2
  simp at this
  exact this

/-- Everything a step can do to the registers: reset, nothing, recording a fault, a command, or a store. -/
theorem step_registers {s t : State} (h : step s = .next t) :
    (PresentsReset s ∧ t = (s.setPending s.pending.tail).resetRegisters.setInReset true) ∨
    (¬ PresentsReset s ∧
      ((∀ r, readReg r t = readReg r s) ∨
       (∃ c info, ∀ r, readReg r t = readReg r (raiseFault c info s)) ∨
       (∃ w i, PresentsCommand s w ∧ decodeWord w = .command i ∧ exec i (s.setPending s.pending.tail) = .next t) ∨
       (∃ r w, r ≠ .cmd ∧ writable r = true ∧ Presents s (regOffset r) (.write (.word w)) ∧
         t = writeReg r w (s.setPending s.pending.tail)))) := by
  rcases step_cases h with ⟨h1, rfl⟩ | ⟨h1, rfl⟩ | ⟨h1, rfl⟩ | ⟨⟨a, h1, _⟩, rfl⟩ | ⟨off, x, hp, ha⟩
  · exact .inr ⟨by simp [PresentsReset, h1], .inl fun _ => rfl⟩
  · exact .inl ⟨h1, rfl⟩
  · exact .inr ⟨by simp [PresentsReset, h1], .inl fun r => by rw [readReg_setInReset, readReg_setPending]⟩
  · exact .inr ⟨by simp [PresentsReset, h1], .inl fun r => by rw [readReg_setPending]⟩
  · refine .inr ⟨fun hr => ?_, ?_⟩
    · have := hp.2.2.symm.trans hr; cases this
    rcases accessAt_cases ha with ⟨_, rfl⟩ | ⟨rfl, w, rfl, he⟩ | ⟨r, w, hr, hw, rfl, rfl, rfl⟩ | ⟨r, _, rfl, rfl, rfl⟩
    · refine .inr (.inl ⟨.busAccess, busInfo off x, fun r => ?_⟩)
      rw [← readReg_raiseFault_setPending r _ _ s s.pending.tail]
      rcases illegalAccess_eq off x (s.setPending s.pending.tail) with e | ⟨d, e⟩ <;> rw [e]
      rw [readReg_answer]
    · rcases executeWord_cases he with ⟨i, hd, hi⟩ | ⟨_, rfl⟩ | ⟨_, rfl⟩
      · exact .inr (.inr (.inl ⟨w, i, hp, hd, hi⟩))
      · exact .inr (.inl ⟨_, w, fun r => readReg_raiseFault_setPending r _ _ s _⟩)
      · exact .inr (.inl ⟨_, w, fun r => readReg_raiseFault_setPending r _ _ s _⟩)
    · exact .inr (.inr (.inr ⟨r, w, hr, hw, hp, rfl⟩))
    · exact .inl fun r => by rw [readReg_answer, readReg_setPending]

/-! ## Runs -/

/-- One step and then k more. -/
theorem run_of_next {k : Nat} {s t : State} (h : step s = .next t) :
    Sys2Proof.core.run (k + 1) s = Sys2Proof.core.run k t := by
  have general : ∀ (M : Host.Core) (s t : M.State), M.step s = .next t → M.run (k + 1) s = M.run k t := by
    intro M s t h; simp only [Host.Core.run, h]
  exact general Sys2Proof.core s t h

/-- A run that stops at its first step. -/
theorem run_of_fault {k : Nat} {s : State} {r : Fault} (h : step s = .fault r) :
    Sys2Proof.core.run (k + 1) s = .fault r := by
  have general : ∀ (M : Host.Core) (s : M.State) (r : M.Fault), M.step s = .fault r → M.run (k + 1) s = .fault r := by
    intro M s r h; simp only [Host.Core.run, h]
  exact general Sys2Proof.core s r h

/-- A run of no step. -/
theorem run_none (s : State) : Sys2Proof.core.run 0 s = .next s := rfl

end Sys2Proof.Machine
end

