-- ==== Sys2Proof/Tests/Slice0.lean ====
section
/-! SUPPORT. The model's own tests. Expected values are those of 95_test_vectors.md (the vector is named) or of the worked
examples of the rule named; the last section shows that the hypotheses of the statements can be met. -/

namespace Sys2Proof.Tests

open Sys2Proof.Machine

/-- A value of the next state, none where there is no next state. -/
def after {α : Type} (f : State → α) : Host.Outcome State Fault Refusal → Option α
  | .next t => some (f t)
  | .fault _ => none
  | .refused _ => none

/-- Reset, then geometry registers as given. -/
def geometry (src grid aspect : Word) : State :=
  { State.reset with srcdim := src, griddim := grid, aspect := aspect }

/-- Reset, with one access presented at an offset of a window that is not at address 0. -/
def presenting (off : Nat) (x : Transfer) : State :=
  { State.reset with window := 3, pending := [.access { addr := 192 + off, transfer := x }] }

/-- STATUS and FAULTINFO of a state. -/
def faultRegs (s : State) : Word × Word := (readReg .status s, readReg .faultInfo s)

/-! ## Well-formedness: an ill-formed word for each check (R74) -/

theorem test_wellFormed_illegal_opcode : wellFormedWord 0x07000000 = false ∧ wellFormedWord 0x00000000 = false := by decide
theorem test_wellFormed_qgrey_reserved : wellFormedWord 0x03FF10C8 = false ∧ wellFormedWord 0x030010C8 = true := by decide
theorem test_wellFormed_crop_reserved : wellFormedWord 0x05000001 = false ∧ wellFormedWord 0x05000000 = true := by decide
theorem test_wellFormed_mirror_reserved : wellFormedWord 0x06010000 = false ∧ wellFormedWord 0x0600004F = true := by decide

/-! ## Decoding, each word written out from R71 and R73 -/

theorem test_decode_luma : decodeWord 0b00000001_11001000_01100100_00110010 = .command (.luma 200 100 50) := by decide
theorem test_decode_sat : decodeWord 0b00000010_01011111_10000111_10001000 = .command (.sat 95 135 136) := by decide
theorem test_decode_qgrey : decodeWord 0b00000011_00000000_00010000_11001000 = .command (.qgrey 200 16) := by decide
theorem test_decode_qcolor : decodeWord 0b00000100_11111111_00000001_00000010 = .command (.qcolor 255 1 2) := by decide
theorem test_decode_crop : decodeWord 0b00000101_00000000_00000000_00000000 = .command .crop := by decide
theorem test_decode_mirror : decodeWord 0b00000110_00000000_11111111_11111110 = .command (.mirror 65534) := by decide
theorem test_decode_bytes_little_endian : decode [0xC8, 0x10, 0x00, 0x03] = .word (.command (.qgrey 200 16)) := by decide
theorem test_decode_wrong_length : decode [0xC8, 0x10, 0x00] = .wrongLength := by decide
theorem test_encode_words : encode (.qgrey 200 16) = 0x030010C8 ∧ encode (.mirror 79) = 0x0600004F := by decide
theorem test_decodeTableWord : decodeTableWord 32 0x04FF0000 = some (.qcolor 255 0 0) ∧ decodeTableWord 32 0x05000001 = none := by
  decide

/-! ## The quantizer unit: V-L-8, V-L-10, V-S-5, V-S-7, V-QG-13, V-QG-9, V-QC-20, V-QC-17 -/

theorem test_luma : after (readReg .result) (exec (.luma 200 100 50) State.reset) = some 117 := by decide
theorem test_luma_exact : after (readReg .result) (exec (.luma 8 171 0) State.reset) = some 124 := by decide
theorem test_sat : after (readReg .result) (exec (.sat 2 1 1) State.reset) = some 127 := by decide
theorem test_sat_three_values : after (readReg .result) (exec (.sat 100 90 80) State.reset) = some 51 := by decide
theorem test_qgrey : after (readReg .result) (exec (.qgrey 100 10) State.reset) = some 239 := by decide
theorem test_qgrey_clamped_up : after (readReg .result) (exec (.qgrey 200 0) State.reset) = some 231 := by decide
theorem test_qcolor_cube : after (readReg .result) (exec (.qcolor 200 100 50) State.reset) = some 167 := by decide
theorem test_qcolor_equality_goes_grey :
    after (readReg .result) (exec (.qcolor 100 90 80) { State.reset with satThr := 51 }) = some 240 := by decide

/-- CubeCoord boundaries (95_test_vectors.md section 2.4). -/
theorem test_cubeCoord : [0, 47, 48, 95, 114, 115, 135, 154, 155, 175, 194, 195, 215, 234, 235, 255].map cubeCoord =
    [0, 0, 1, 1, 1, 2, 2, 2, 3, 3, 3, 4, 4, 4, 5, 5] := by decide

/-! ## The geometry unit: V-CR-4, V-CR-10, V-MI-2, V-MI-6 -/

theorem test_crop_odd_leftover :
    after (fun t => (readReg .cropxy t, readReg .cropwh t, readReg .status t))
      (exec .crop (geometry 0x04380780 0x003200C8 0x00006666)) = some (0x00000060, 0x043806BF, 0) := by decide
theorem test_crop_empty :
    after (fun t => (readReg .cropxy t, readReg .cropwh t, readReg .status t))
      (exec .crop (geometry 0xFFFF0001 0x0001FFFF 0xFFFFFFFF)) = some (0x7FFF0000, 0x00000001, 2) := by decide
theorem test_mirror : after (readReg .result) (exec (.mirror 79) (geometry 0 80 0)) = some 0 := by decide
theorem test_mirror_range :
    after (fun t => (readReg .result t, faultRegs t)) (exec (.mirror 80) (geometry 0 80 0)) = some (0, 0x41, 0x06000050) := by
  decide

/-! ## Steps: V-CR-13, V-F-4, V-F-5, V-F-10, V-F-11, V-R-2, V-R-4 -/

theorem test_step_crop_at_reset :
    after faultRegs (step (presenting 0 (.write (.word 0x05000000)))) = some (0x31, 0x05000000) := by decide
theorem test_step_reserved_field :
    after faultRegs (step (presenting 0 (.write (.word 0x03FF10C8)))) = some (0x21, 0x03FF10C8) := by decide
theorem test_step_byte_write_to_cmd :
    after faultRegs (step (presenting 0 (.write (.byte 0x04)))) = some (0x51, 0x100) := by decide
theorem test_step_misaligned_read :
    after (fun t => (faultRegs t, t.answers)) (step (presenting 6 (.read .word))) = some ((0x51, 0x406), [.word 0]) := by decide
theorem test_first_fault_kept :
    after faultRegs (executeWord 0x07000000 (raiseFault .illegalOpcode 0 State.reset)) = some (0x11, 0) := by decide
theorem test_step_threshold_write :
    after (readReg .thresh) (step (presenting 0x10 (.write (.word 0x140)))) = some 0x40 := by decide
theorem test_step_reset_clears :
    after faultRegs (step { raiseFault .illegalOpcode 0 State.reset with pending := [.assertReset] }) = some (0, 0) := by decide
theorem test_step_runs_placed_word :
    after (readReg .result) (step (State.reset.withFetchWord 32 0x01FFFFFF)) = some 255 := by decide
theorem test_step_access_during_reset :
    (match step { presenting 4 (.read .word) with inReset := true } with
      | .fault .accessDuringReset => true | .next _ | .refused _ => false) = true := by decide
theorem test_windowByte : windowByte { State.reset with window := 3, srcdim := 0x02580320 } 213 = some 0x03 := by decide

/-! ## The assembler (R77, R78; E-3, V-QG-21, V-F-5) -/

theorem test_asm_qgrey : asmWord (.qgrey 200 16) = some 0x030010C8 ∧ asmWord (.qgreyDefault 200) = some 0x03001AC8 := by decide
theorem test_asm_refuses : asmWord (.luma 256 0 0) = none ∧ asmWord (.mirror 65536) = none := by decide
theorem test_asm_wrdim : assemble 64 (.wrdim .srcdim 600 800) = some (wordWrite 64 .srcdim 0x02580320) := by decide
theorem test_asm_text :
    parseLine [' ', 'q', 'c', 'o', 'l', 'o', 'r', ' ', '2', '5', '5', ',', ' ', '0', 'x', '1', 'f', ',', '0', ' ', ';', 'c'] =
      .line (.qcolor 255 31 0) := by decide
theorem test_asm_text_register : parseLine ['r', 'd', ' ', 'R', 'E', 'S', 'U', 'L', 'T'] = .line (.rd .result) := by decide
theorem test_asm_text_comment : parseLine [' ', ';', ' ', 'c', 'r', 'o', 'p'] = .blank := by decide

/-! ## Witnesses: a state and operands that meet the hypotheses of each statement, for each of its clauses -/

theorem witness_EncodeOfDecode : decodeWord 0x0600FFFF = .command (.mirror 0xFFFF) := by decide
theorem witness_AssemblerWordsAreEncodings : (255 < 256 ∧ 65535 < 65536) ∧ (256 ≤ 256 ∧ 65536 ≤ 65536) := by decide
theorem witness_AssembledLinesAreTheirAccesses :
    assemble 64 (.bytewr 63 255) = some (.access { addr := 127, transfer := .write (.byte 255) }) ∧
    assemble 64 (.rd .cropwh) = some (.access { addr := 100, transfer := .read .word }) ∧
    assemble 64 (.wr .status 0) = none ∧ assemble 64 (.wr .aspect 0xFFFFFFFF) = some (wordWrite 64 .aspect 0xFFFFFFFF) ∧
    assemble 64 (.luma 5 6 7) = some (.access { addr := 64, transfer := .write (.word 0x01050607) }) := by decide
theorem witness_OpcodeRowsSelectTheCommands :
    (⟨0xFFFF0000, 0x06000000⟩ : OpcodeRow) ∈ opcodeRows ∧
      (⟨0xFFFF0000, 0x06000000⟩ : OpcodeRow).selects 0x0600FFFF = true := by decide
theorem witness_StepRunsDecodedCommand :
    PresentsCommand (presenting 0 (.write (.word 0x05000000))) 0x05000000 ∧ decodeWord 0x05000000 = .command .crop := by decide
theorem witness_StepWithNothingPresentedKeepsTheState : State.reset.pending = [] := by decide
theorem witness_QgreyResult_reserved :
    (0x03010000 : Word).toNat / 2 ^ 24 = 3 ∧ (0x03010000 : Word).toNat / 2 ^ 16 % 256 ≠ 0 := by decide
theorem witness_QgreyClampsAndEnds : (2 : Byte).toNat ≤ 2 ∧ 26 ≤ (26 : Byte).toNat := by decide
theorem witness_QcolorResult_grey :
    satOf 95 95 95 ≤ (readReg .thresh State.reset).toNat ∧ satOf 100 90 80 ≤ (51 : Byte).toNat := by decide
theorem witness_QcolorResult_cube : (readReg .thresh State.reset).toNat < satOf 95 135 135 := by decide
theorem witness_CubeCoordIsTheNearestStop : (5 ≤ 5) ∧ (1 ≤ 1 ∧ 1 ≤ 5) ∧
    |(115 : ℤ) - romStop.getD (cubeCoord 115) 0| = |(115 : ℤ) - romStop.getD 1 0| := by decide
theorem witness_QcolorNeverYieldsABasicColour : 64 < satOf 255 0 0 ∧ satOf 5 5 5 ≤ 0 := by decide
theorem witness_CubeColoursKeepTheirIndex :
    (readReg .thresh State.reset).toNat < satOf (romStop.getD 1 0) (romStop.getD 2 0) (romStop.getD 2 0) := by decide
theorem witness_QuantizerReadsOnlyThresh :
    readReg .thresh State.reset = readReg .thresh (geometry 1 1 1) ∧
    after (readReg .result) (exec (.qcolor 1 2 3) State.reset) = after (readReg .result) (exec (.qcolor 1 2 3) (geometry 1 1 1)) ∧
    (after (readReg .result) (exec (.qcolor 1 2 3) State.reset)).isSome = true := by decide
/-- The largest inputs, where the height shrinks (V-CR-10). -/
theorem witness_CropResult_height :
    (readReg .srcdim (geometry 0xFFFF0001 0x0001FFFF 0xFFFFFFFF)).toNat % 65536 = 1 ∧
    (readReg .srcdim (geometry 0xFFFF0001 0x0001FFFF 0xFFFFFFFF)).toNat / 65536 = 65535 ∧
    65536 * 1 * 1 < 4294967295 * 65535 * 65535 ∧ 1 * 65536 * 1 / (4294967295 * 65535) = 0 := by decide
/-- The smallest inputs, where the width shrinks (V-CR-9). -/
theorem witness_CropResult_width : 1 * 1 * 1 < 65536 * 1 * 1 ∧ 1 * 1 * 1 / (65536 * 1) = 0 := by decide
/-- Equal aspects (V-CR-6). -/
theorem witness_CropResult_equal : 65536 * 3 * 2 = 65536 * 2 * 3 := by decide
theorem witness_CropResult_zero : (readReg .aspect (geometry 0x00010001 0x00010001 0)).toNat = 0 := by decide
theorem witness_CropResult_reserved :
    (0x05800000 : Word).toNat / 2 ^ 24 = 5 ∧ (0x05800000 : Word).toNat % 2 ^ 24 ≠ 0 := by decide
theorem witness_AspectComparisonIsExact :
    (0 < 800 ∧ 0 < 600 ∧ 0 < 80 ∧ 0 < 24 ∧ 0 < 32768) ∧ cropRhs 24 800 < cropLhs 32768 80 600 := by decide
theorem witness_CropSizeIsTheFloorOfTheExactQuotient :
    cropRhs 24 800 < cropLhs 32768 80 600 ∧ cropLhs 32768 120 720 < cropRhs 40 1280 ∧ cropLhs 65536 3 2 = cropRhs 2 3 := by decide
/-- Nonzero inputs and a CROP that succeeds, for CropRectangleLiesInTheFrame and CropMarginsDifferByTheOddPixel. -/
theorem witness_CropRectangleLiesInTheFrame_and_CropMargins :
    (srcWidth (geometry 0x04380780 0x003200C8 0x6666) ≠ 0 ∧ srcHeight (geometry 0x04380780 0x003200C8 0x6666) ≠ 0 ∧
      gridCols (geometry 0x04380780 0x003200C8 0x6666) ≠ 0 ∧ gridRows (geometry 0x04380780 0x003200C8 0x6666) ≠ 0 ∧
      aspectA (geometry 0x04380780 0x003200C8 0x6666) ≠ 0) ∧
    (after cropW (exec .crop (geometry 0x04380780 0x003200C8 0x6666))) = some 1727 := by decide
theorem witness_MirrorResult_in_range : (79 : Half).toNat < (readReg .griddim (geometry 0 80 0)).toNat % 65536 := by decide
theorem witness_MirrorResult_out_of_range : (readReg .griddim (geometry 0 80 0)).toNat % 65536 ≤ (80 : Half).toNat := by decide
theorem witness_MirrorResult_reserved :
    (0x06FF0000 : Word).toNat / 2 ^ 24 = 6 ∧ (0x06FF0000 : Word).toNat / 2 ^ 16 % 256 ≠ 0 := by decide
theorem witness_MirroringTwiceReturnsTheColumn : (65534 : Half).toNat < gridCols (geometry 0 0xFFFF 0) := by decide
theorem witness_CommandsKeepEveryOtherByte :
    (after id (exec .crop State.reset)).isSome = true ∧ cropDegenerate State.reset = true ∧
    cropDegenerate (geometry 0x00010001 0x00010001 1) = false ∧ (0 : Half).toNat < gridCols (geometry 0 1 0) ∧
    gridCols State.reset ≤ (0 : Half).toNat ∧
    (bytesOfReg .result).all (fun off => decide (0x10 ≠ State.reset.base + off)) = true := by decide
theorem witness_RepeatingACommandChangesNothing : (after id (exec .crop State.reset)).isSome = true := by decide
/-- Both cases of RecordsFault, for FirstFaultIsKept and every statement that says a fault is recorded. -/
theorem witness_FirstFaultIsKept :
    (readReg .status State.reset).getLsbD 0 = false ∧
    (readReg .status (raiseFault .busAccess 0 State.reset)).getLsbD 0 = true := by decide
theorem witness_IllegalWordsFault :
    PresentsCommand (presenting 0 (.write (.word 0x07000000))) 0x07000000 ∧ 7 ≤ (0x07000000 : Word).toNat / 2 ^ 24 ∧
    (0x00FFFFFF : Word).toNat / 2 ^ 24 = 0 ∧
    PresentsCommand (presenting 0 (.write (.word 0x05000001))) 0x05000001 ∧ (0x05000001 : Word).toNat % 2 ^ 24 ≠ 0 := by decide
theorem witness_FaultChecksRunInOrder :
    Presents (presenting 0 (.write (.byte 0))) 0 (.write (.byte 0)) ∧ dataWidth (.byte 0) ≠ .word ∧
    decodeWord 0x00000000 = .illegalOpcode ∧ decodeWord 0x05000001 = .reservedField ∧
    cropDegenerate (presenting 0 (.write (.word 0x05000000))) = true ∧
    decodeWord 0x06000000 = .command (.mirror 0) ∧ gridCols (presenting 0 (.write (.word 0x06000000))) ≤ (0 : Half).toNat := by
  decide
theorem witness_LegalAccesses : legalReg 0x24 (.read .word) = some .cropwh ∧ legalReg 0x00 (.write (.word 0)) = some .cmd ∧
    legalReg 0x00 (.read .word) = none ∧ legalReg 0x20 (.write (.word 0)) = none ∧ legalReg 0x28 (.read .word) = none := by decide
theorem witness_IllegalAccessFaults :
    Presents (presenting 63 (.read .byte)) 63 (.read .byte) ∧ legalReg 63 (.read .byte) = none ∧
    Presents (presenting 0x28 (.write (.word 5))) 0x28 (.write (.word 5)) ∧ legalReg 0x28 (.write (.word 5)) = none ∧
    legalReg 2 (.read .half) = none ∧ legalReg 0 (.read .word) = none := by decide
theorem witness_LegalReadHasNoSideEffect :
    Reg.cropwh ≠ .cmd ∧ Presents (presenting 0x24 (.read .word)) (regOffset .cropwh) (.read .word) := by decide
theorem witness_LegalWriteStoresTheDefinedBits :
    Presents (presenting 0x1C (.write (.word 0xFFFFFFFF))) (regOffset .aspect) (.write (.word 0xFFFFFFFF)) ∧
    Presents (presenting 0x10 (.write (.word 0x140))) (regOffset .thresh) (.write (.word 0x140)) := by decide
theorem witness_ByteLanesAreLittleEndian : Reg.result ≠ .cmd ∧ 3 < 4 := by decide
theorem witness_AccessOutsideTheWindowIsNotDecoded :
    (presenting 64 (.read .word)).pending.head? = some (.access { addr := 256, transfer := .read .word }) ∧
    (presenting 64 (.read .word)).base + 64 ≤ 256 ∧ 191 < (presenting 64 (.read .word)).base := by decide
theorem witness_StepTakesOneEventAndAnswersReads :
    Presents (presenting 4 (.read .word)) 4 (.read .word) ∧ (after id (step (presenting 4 (.read .word)))).isSome = true ∧
    (after id (step State.reset)).isSome = true := by decide
theorem witness_StepTakesOneEventAndAnswersReads_none : ¬ ∃ off n, Presents State.reset off (.read n) := by
  rintro ⟨_, _, _, _, h⟩; cases h
theorem witness_ResetSetsEveryRegister : PresentsReset { State.reset with pending := [.assertReset] } ∧ ¬ PresentsReset State.reset := by
  decide
theorem witness_ReleasingResetOnlyReleasesTheLine :
    ({ State.reset with pending := [.releaseReset] } : State).pending.head? = some .releaseReset := by decide
theorem witness_AccessDuringResetIsAStop :
    ({ presenting 63 (.read .byte) with inReset := true } : State).inReset = true ∧
    (presenting 63 (.read .byte)).pending.head? = some (.access { addr := 255, transfer := .read .byte }) ∧
    (presenting 63 (.read .byte)).base ≤ 255 ∧ 255 < (presenting 63 (.read .byte)).base + 64 := by decide
/-- The configuration registers do change, by a legal write. -/
theorem witness_OnlyResetClearsTheFaultRecord :
    after (readReg .aspect) (step (presenting 0x1C (.write (.word 7)))) = some 7 ∧ readReg .aspect State.reset = 0 ∧
    after (fun t => (readReg .status t).getLsbD 0) (step { raiseFault .busAccess 0 State.reset with pending := [.releaseReset] }) =
      some true := by decide
/-- CROPXY and CROPWH do change, by a CROP that succeeds (V-CR-1). -/
theorem witness_OnlyACropChangesTheRectangle :
    after (fun t => (readReg .cropxy t, readReg .cropwh t)) (step ((geometry 0x02580320 0x00180050 0x8000).withFetchWord 32 0x05000000)) =
      some (0x003C0000, 0x01E00320) := by decide
theorem witness_OnlyFiveCommandsChangeResult :
    after (readReg .result) (step (State.reset.withFetchWord 32 0x04FF0000)) = some 196 ∧ readReg .result State.reset = 0 := by decide
theorem witness_ThresholdIsSampledWhenQcolorExecutes :
    ({ State.reset with pending := [.access { addr := 0x10, transfer := .write (.word ((24 : Byte).zeroExtend 32)) },
        .access { addr := 0, transfer := .write (.word (encode (.qcolor 100 90 80))) }] } : State).pending =
      .access { addr := State.reset.base + 0x10, transfer := .write (.word ((24 : Byte).zeroExtend 32)) } ::
        .access { addr := State.reset.base, transfer := .write (.word (encode (.qcolor 100 90 80))) } :: [] := by decide
/-- A batch of one LUMA ends with ERR = 0. -/
theorem witness_CleanStatusMeansACleanBatch :
    after (fun t => (readReg .status t).getLsbD 0) (Sys2Proof.core.run 1 (State.reset.withFetchWord 32 0x01FFFFFF)) = some false ∧
    ((State.reset.withFetchWord 32 0x01FFFFFF).pending.take 1).all (fun e => decide (e ≠ HostEvent.assertReset)) = true := by decide
/-- A state with a recorded fault meets the invariant, and a step from it goes on. -/
theorem witness_StepKeepsTheInvariant :
    (raiseFault .geomOperand (encode .crop) State.reset).Inv ∧
    (after id (step (raiseFault .geomOperand (encode .crop) State.reset))).isSome = true :=
  ⟨{ noRecord := fun h => absurd h (by decide)
     record := fun _ => ⟨.geomOperand, rfl, by show decodeWord _ = _; decide⟩
     zcrop := .inl ⟨rfl, rfl, rfl⟩
     centredX := by decide
     centredY := by decide }, by decide⟩
theorem witness_IntermediatesFit :
    cropDegenerate (geometry 0x00010001 0x00010001 1) = false ∧ (65534 : Half).toNat < gridCols (geometry 0 0xFFFF 0) ∧
    max (255 : Byte).toNat (max (0 : Byte).toNat (0 : Byte).toNat) ≠ 0 ∧
    max (0 : Byte).toNat (max (0 : Byte).toNat (0 : Byte).toNat) = 0 := by decide

end Sys2Proof.Tests
end

namespace Sys2Proof

/-! ## The decoder on the words of CROP and MIRROR -/

/-- The one word of CROP: OPCODE 5 and no operand bit set (R73, R76). -/
theorem eq_of_decodeWord_crop {w : Word} (h : decodeWord w = .command .crop) : w = 0x05000000 := by
  rcases decodeWord_cases w with ⟨_, e⟩ | ⟨_, e⟩ | ⟨_, _, e⟩ | ⟨_, e⟩ | ⟨hop, hoperand, _⟩ | ⟨_, _, e⟩ | ⟨_, e⟩ | ⟨_, e⟩
  case inr.inr.inr.inr.inl =>
    rw [word_eq_fields w, hop, hoperand]
    rfl
  all_goals exact absurd (e.symm.trans h) (by simp)

theorem decodeWord_encode_crop : decodeWord (encode .crop) = .command .crop := by decide

/-- MIRROR's own word has its reserved byte clear, so it decodes to a MIRROR (R71, R73, R76). -/
theorem decodeWord_encode_mirror (col : Half) :
    decodeWord (encode (.mirror col)) = .command (.mirror (columnField (encode (.mirror col)))) := by
  have hop : opcodeField (encode (.mirror col)) = 6 := (Laws.EncodedFields.mirror col).1
  have hup : upperField (encode (.mirror col)) = 0 := by
    have hcol := col.isLt
    apply BitVec.eq_of_toNat_eq
    simp only [upperField_toNat, encode_toNat, opcodeOf, operandOf, append_toNat, BitVec.ofNat_eq_ofNat,
      BitVec.toNat_ofNat]
    omega
  simp [decodeWord, hop, hup]

end Sys2Proof

namespace Sys2Proof.Machine

/-! ## Facts about a command word, a store, a register's halves and STATUS -/

/-- A word that decodes to a command runs it (R76). -/
theorem executeWord_command {w : Word} {i : Instr} (s : State) (h : decodeWord w = .command i) :
    executeWord w s = exec i s := by
  simp only [executeWord, h]

/-- A register that stores reads its defined bits of the word written: the low 8 of THRESH, all of the others (R28 to R31,
R38). -/
theorem readReg_writeReg_self {r : Reg} (w : Word) (s : State)
    (h : r = .thresh ∨ r = .srcdim ∨ r = .griddim ∨ r = .aspect) :
    readReg r (writeReg r w s) = (w &&& if r = .thresh then 0x000000FF else 0xFFFFFFFF) := by
  have hall : w = w &&& 0xFFFFFFFF := (BitVec.and_allOnes (x := w)).symm
  rcases h with rfl | rfl | rfl | rfl
  · show (w.extractLsb' 0 8).zeroExtend 32 = w &&& 0x000000FF
    apply BitVec.eq_of_toNat_eq
    rw [BitVec.toNat_and, show (0x000000FF : Word).toNat = 2 ^ 8 - 1 from rfl, Nat.and_two_pow_sub_one_eq_mod]
    simp only [BitVec.truncate_eq_setWidth, BitVec.toNat_setWidth, BitVec.extractLsb'_toNat, Nat.shiftRight_zero]
    omega
  · exact hall
  · exact hall
  · exact hall

/-- A store by the host leaves every read-only register (R38). -/
theorem readReg_writeReg_readOnly {q r : Reg} (w : Word) (s : State) (hq : writable q = false) (hr : writable r = true) :
    readReg q (writeReg r w s) = readReg q s :=
  readReg_writeReg_ne w s (by rintro rfl; simp [hq] at hr)

/-- A store by the host leaves the model's own fields. -/
theorem writeReg_hostSide (r : Reg) (w : Word) (s : State) : KeepsHostSide s (writeReg r w s) := by
  cases r <;> exact ⟨rfl, rfl, rfl, rfl⟩

/-- RESULT[31:16] reads as zero (R25). -/
theorem readReg_result_reserved (s : State) : readReg .result s &&& 0xFFFF0000 = 0 := by
  have h : readReg .result s = (0 : Half) ++ s.result := BitVec.setWidth_eq_append (by decide)
  rw [h, show (0xFFFF0000 : Word) = (0xFFFF : Half) ++ (0 : Half) from rfl, append_and]
  simp

/-- THRESH[31:8] reads as zero (R28). -/
theorem readReg_thresh_reserved (s : State) : readReg .thresh s &&& 0xFFFFFF00 = 0 := by
  have h : readReg .thresh s = (0 : BitVec 24) ++ s.satThr := BitVec.setWidth_eq_append (by decide)
  rw [h, show (0xFFFFFF00 : Word) = (0xFFFFFF : BitVec 24) ++ (0 : Byte) from rfl, append_and]
  simp

/-- STATUS[31:8] and STATUS[3:2] read as zero (R26). -/
theorem readReg_status_reserved (s : State) : readReg .status s &&& 0xFFFFFF0C = 0 := by
  rw [show (0xFFFFFF0C : Word) = (0xFFFFFF : BitVec 24) ++ (0 : BitVec 4) ++ (3 : BitVec 2) ++ (0 : BitVec 1) ++
    (0 : BitVec 1) from rfl, readReg, statusWord, append_and, append_and, append_and, append_and]
  simp

/-- A register is its two halves (R29, R30, R32). -/
theorem halves_toNat (w : Word) : (lowHalf w).toNat + 65536 * (highHalf w).toNat = w.toNat := by
  rw [lowHalf_toNat, highHalf_toNat, Nat.mod_add_div]

/-! ## The invariant, one lemma per operation -/

/-- The invariant reads STATUS, FAULTINFO, CROPXY and CROPWH and nothing else. -/
theorem State.Inv.congr {s t : State} (hi : s.Inv) (hstatus : t.status = s.status) (hinfo : t.faultInfo = s.faultInfo)
    (hxy : t.cropxy = s.cropxy) (hwh : t.cropwh = s.cropwh) : t.Inv := by
  have hX : cropX t = cropX s := by simp [cropX, hxy]
  have hY : cropY t = cropY s := by simp [cropY, hxy]
  have hW : cropW t = cropW s := by simp [cropW, hwh]
  have hH : cropH t = cropH s := by simp [cropH, hwh]
  constructor
  · rw [hstatus, hinfo]; exact hi.noRecord
  · rw [hstatus, hinfo]; exact hi.record
  · rw [hstatus, hxy, hwh, hW, hH]; exact hi.zcrop
  · rw [hX, hW]; exact hi.centredX
  · rw [hY, hH]; exact hi.centredY

/-- The reset values meet the invariant (R200). -/
theorem resetRegisters_inv (s : State) : s.resetRegisters.Inv where
  noRecord := fun _ => ⟨rfl, rfl⟩
  record := fun h => absurd h Bool.false_ne_true
  zcrop := .inl ⟨rfl, rfl, rfl⟩
  centredX := by simp [cropX, cropW, lowHalf]
  centredY := by simp [cropY, cropH, highHalf]

/-- Recording a fault keeps the invariant when its information fits its cause: the first fault makes a fitting record, a
later one changes nothing (R172). -/
theorem raiseFault_keeps_inv {c : FaultCause} {info : Word} {s : State} (hfit : InfoFits c info) (hi : s.Inv) :
    (raiseFault c info s).Inv := by
  rcases raiseFault_cases c info s with ⟨_, e⟩ | ⟨_, e⟩ <;> rw [e]
  · exact hi
  · exact
      { noRecord := fun h => absurd h.symm Bool.false_ne_true
        record := fun _ => ⟨c, rfl, hfit⟩
        zcrop := hi.zcrop
        centredX := hi.centredX
        centredY := hi.centredY }

/-- A crop that fits in the source frame leaves a centred rectangle and its own ZCROP (R143, R146). -/
theorem storeCrop_keeps_inv {w h : Nat} {s : State} (hw : w ≤ srcWidth s) (hh : h ≤ srcHeight s) (hi : s.Inv) :
    (storeCrop w h s).Inv := by
  obtain ⟨hX, hY, hW, hH⟩ := storeCrop_fields hw hh
  have hsw := srcWidth_lt s
  have hsh := srcHeight_lt s
  exact
    { noRecord := hi.noRecord
      record := hi.record
      zcrop := .inr (by rw [hW, hH]; rfl)
      centredX := by rw [hX, hW]; omega
      centredY := by rw [hY, hH]; omega }

/-- A command keeps the invariant: it writes RESULT, stores a crop that fits, or records a fault with its own word (R76). -/
theorem exec_keeps_inv {i : Instr} {s t : State} (hi : s.Inv) (h : exec i s = .next t) : t.Inv := by
  rcases exec_cases h with ⟨_, _, v, rfl⟩ | ⟨_, _, rfl⟩ | ⟨_, _, rfl⟩ | ⟨col, _, _, rfl⟩
  · exact hi.congr rfl rfl rfl rfl
  · exact storeCrop_keeps_inv (cropOf_le s).1 (cropOf_le s).2 hi
  · exact raiseFault_keeps_inv (c := .geomOperand) decodeWord_encode_crop hi
  · exact raiseFault_keeps_inv ⟨_, decodeWord_encode_mirror col⟩ hi

/-- A word written to CMD keeps the invariant, whether it is a command or faults (R74, R76). -/
theorem executeWord_keeps_inv {w : Word} {s t : State} (hi : s.Inv) (h : executeWord w s = .next t) : t.Inv := by
  rcases executeWord_cases h with ⟨i, _, he⟩ | ⟨hd, rfl⟩ | ⟨hd, rfl⟩
  · exact exec_keeps_inv hi he
  · exact raiseFault_keeps_inv hd hi
  · exact raiseFault_keeps_inv hd hi

/-- An illegal access keeps the invariant: its FAULTINFO is that of the access (R55). -/
theorem illegalAccess_keeps_inv {off : Nat} {x : Transfer} {s : State} (ho : off < 64) (hl : legalReg off x = none)
    (hi : s.Inv) : (illegalAccess off x s).Inv := by
  have hr : (raiseFault .busAccess (busInfo off x) s).Inv := raiseFault_keeps_inv ⟨off, x, ho, hl, rfl⟩ hi
  rcases illegalAccess_eq off x s with e | ⟨d, e⟩ <;> rw [e]
  · exact hr
  · exact hr.congr rfl rfl rfl rfl

/-- A store by the host reaches none of the registers the invariant reads (R38). -/
theorem writeReg_keeps_inv (r : Reg) (w : Word) {s : State} (hi : s.Inv) : (writeReg r w s).Inv := by
  cases r <;> exact hi.congr rfl rfl rfl rfl

/-- An access at an offset of the window keeps the invariant (R52). -/
theorem accessAt_keeps_inv {off : Nat} {x : Transfer} {s t : State} (ho : off < 64) (hi : s.Inv)
    (h : accessAt off x s = .next t) : t.Inv := by
  rcases accessAt_cases h with ⟨hl, rfl⟩ | ⟨_, w, _, he⟩ | ⟨r, w, _, _, _, _, rfl⟩ | ⟨r, _, _, _, rfl⟩
  · exact illegalAccess_keeps_inv ho hl hi
  · exact executeWord_keeps_inv hi he
  · exact writeReg_keeps_inv r w hi
  · exact hi.congr rfl rfl rfl rfl

/-- Settles O55: each thing a step can do keeps the invariant. -/
theorem stepKeepsTheInvariant : Obligations.StepKeepsTheInvariant := by
  intro s t hi h
  have hp : (s.setPending s.pending.tail).Inv := hi.congr rfl rfl rfl rfl
  rcases step_cases h with ⟨_, rfl⟩ | ⟨_, rfl⟩ | ⟨_, rfl⟩ | ⟨_, rfl⟩ | ⟨off, x, ⟨ho, _, _⟩, ha⟩
  · exact hi
  · exact (resetRegisters_inv (s.setPending s.pending.tail)).congr rfl rfl rfl rfl
  · exact hi.congr rfl rfl rfl rfl
  · exact hp
  · exact accessAt_keeps_inv ho hp ha

/-! ## The palette regions of the quantizer's results (40_quantizer.md R108, R111) -/

theorem paletteRegion_ne_basic {index : Nat} (h : 16 ≤ index) : paletteRegion index ≠ .basic := by
  unfold paletteRegion
  rw [if_neg (Nat.not_lt.2 h)]
  split <;> simp

/-- A cube index lies in the cube, at the coordinates it is made of (R36, R108). -/
theorem paletteRegion_cubeIndex (r g b : Nat) :
    paletteRegion (cubeIndex r g b) = .cube (cubeCoord r) (cubeCoord g) (cubeCoord b) := by
  have hbounds := cubeIndex_bounds r g b
  have hr := cubeCoord_le r
  have hg := cubeCoord_le g
  have hb := cubeCoord_le b
  unfold paletteRegion
  rw [if_neg (by omega), if_pos (by omega), PaletteRegion.cube.injEq, cubeIndex]
  omega

/-- Above the threshold QCOLOR takes the cube path (R109). -/
theorem quantizeColor_of_lt {r g b thr : Nat} (h : thr < satOf r g b) : quantizeColor r g b thr = cubeIndex r g b :=
  if_neg (Nat.not_le.2 h)

/-- At or below the threshold QCOLOR takes the grey path (R109). -/
theorem quantizeColor_of_le {r g b thr : Nat} (h : satOf r g b ≤ thr) :
    quantizeColor r g b thr = quantizeGrey (lumaOf r g b) 26 :=
  if_pos h

theorem quantizeGrey_mem_romGrey {y : Nat} (l : Nat) (hy : y ≤ 255) : quantizeGrey y l ∈ romGrey :=
  greyEntry_mem (greyIndex_le l hy)

/-- Settles O21: the results start at 16, and each path's result lies in its own region. -/
theorem qcolorNeverYieldsABasicColour : Obligations.QcolorNeverYieldsABasicColour := by
  intro r g b thr
  obtain ⟨hlow, hhigh⟩ := quantizeColor_bounds thr (byte_le r) (byte_le g) (byte_le b)
  refine ⟨paletteRegion_ne_basic hlow, hhigh, fun h => ?_, fun h => ?_⟩
  · rw [quantizeColor_of_lt h]
    exact paletteRegion_cubeIndex _ _ _
  · rw [quantizeColor_of_le h]
    exact quantizeGrey_mem_romGrey 26 (lumaOf_le (byte_le r) (byte_le g) (byte_le b))

/-! ## The store (10_state.md R38) -/

/-- Settles O41: the legal write is writeReg in the state with the access taken. -/
theorem legalWriteStoresTheDefinedBits : Obligations.LegalWriteStoresTheDefinedBits := by
  refine ⟨fun s r w hr hp => ?_, fun s =>
    ⟨readReg_result_reserved s, readReg_thresh_reserved s, readReg_status_reserved s⟩⟩
  have hne : r ≠ .cmd := by rintro rfl; simp at hr
  have hw : writable r = true := by rcases hr with rfl | rfl | rfl | rfl <;> rfl
  refine ⟨writeReg r w (s.setPending s.pending.tail), ?_, readReg_writeReg_self w _ hr, fun q hq => ?_,
    writeReg_hostSide r w _⟩
  · rw [step_presents hp, accessAt_write w _ hne hw]
  · rw [readReg_writeReg_ne w _ (by simpa using hq), readReg_setPending]

/-! ## Which steps change the rectangle and RESULT (10_state.md R25, R32, R39) -/

/-- CROPXY, CROPWH and ZCROP read the same in t as in s. -/
def KeepsRectangle (s t : State) : Prop :=
  readReg .cropxy t = readReg .cropxy s ∧ readReg .cropwh t = readReg .cropwh s ∧
    (readReg .status t).getLsbD 1 = (readReg .status s).getLsbD 1

theorem keepsRectangle_of_readReg {s t : State} (h : ∀ r, readReg r t = readReg r s) : KeepsRectangle s t :=
  ⟨h .cropxy, h .cropwh, by rw [h .status]⟩

/-- Recording a fault leaves the rectangle, ZCROP with it (R172). -/
theorem raiseFault_keepsRectangle (c : FaultCause) (info : Word) (s : State) : KeepsRectangle s (raiseFault c info s) := by
  obtain ⟨_, _, _, _, hz⟩ := raiseFault_rest c info s
  refine ⟨raiseFault_readReg c info s (by decide) (by decide), raiseFault_readReg c info s (by decide) (by decide), ?_⟩
  simp only [readReg, statusWord_zcrop, hz]

/-- A register the host can write is no part of the rectangle. -/
theorem writeReg_keepsRectangle {r : Reg} (w : Word) (s : State) (hw : writable r = true) :
    KeepsRectangle s (writeReg r w s) :=
  ⟨readReg_writeReg_readOnly w s rfl hw, readReg_writeReg_readOnly w s rfl hw,
    by rw [readReg_writeReg_readOnly (q := .status) w s rfl hw]⟩

/-- A command leaves the rectangle unless it is a CROP with nonzero inputs (R144, R145). -/
theorem exec_keepsRectangle {i : Instr} {s t : State} (h : exec i s = .next t) :
    (i = .crop ∧ cropDegenerate s = false) ∨ KeepsRectangle s t := by
  rcases exec_cases h with ⟨_, _, v, rfl⟩ | ⟨hi, hd, _⟩ | ⟨_, _, rfl⟩ | ⟨col, _, _, rfl⟩
  · exact .inr ⟨rfl, rfl, rfl⟩
  · exact .inl ⟨hi, hd⟩
  · exact .inr (raiseFault_keepsRectangle _ _ s)
  · exact .inr (raiseFault_keepsRectangle _ _ s)

/-- A step leaves the rectangle unless it asserts reset or runs a CROP with nonzero inputs. -/
theorem step_keepsRectangle {s t : State} (h : step s = .next t) :
    PresentsReset s ∨ (PresentsCommand s 0x05000000 ∧ cropDegenerate s = false) ∨ KeepsRectangle s t := by
  rcases step_registers h with ⟨hr, _⟩ | ⟨_, hk | ⟨c, info, hf⟩ | ⟨w, i, hp, hd, he⟩ | ⟨r, w, _, hw, _, rfl⟩⟩
  · exact .inl hr
  · exact .inr (.inr (keepsRectangle_of_readReg hk))
  · obtain ⟨hxy, hwh, hz⟩ := raiseFault_keepsRectangle c info s
    exact .inr (.inr ⟨(hf _).trans hxy, (hf _).trans hwh, by rw [hf, hz]⟩)
  · rcases exec_keepsRectangle he with ⟨rfl, hdeg⟩ | hk
    · cases eq_of_decodeWord_crop hd
      exact .inr (.inl ⟨hp, hdeg⟩)
    · exact .inr (.inr hk)
  · exact .inr (.inr (writeReg_keepsRectangle w _ hw))

/-- Settles O51: a step that changes the rectangle is not one that keeps it. -/
theorem onlyACropChangesTheRectangle : Obligations.OnlyACropChangesTheRectangle := by
  intro s t h hchange
  rcases step_keepsRectangle h with hr | ⟨hp, hd⟩ | ⟨hxy, hwh, hz⟩
  · exact .inl hr
  · exact .inr ⟨hp, (cropDegenerate_eq_false s).1 hd⟩
  · rcases hchange with hc | hc | hc
    · exact absurd hxy hc
    · exact absurd hwh hc
    · exact absurd hz hc

/-- A command leaves RESULT if it is CROP or a MIRROR out of range (R25, R145, R149). -/
theorem exec_keepsResult {i : Instr} {s t : State} (h : exec i s = .next t) :
    (i ≠ .crop ∧ ∀ col, i = .mirror col → col.toNat < gridCols s) ∨ readReg .result t = readReg .result s := by
  rcases exec_cases h with ⟨hi, hcol, _⟩ | ⟨_, _, rfl⟩ | ⟨_, _, rfl⟩ | ⟨col, _, _, rfl⟩
  · exact .inl ⟨hi, hcol⟩
  · exact .inr rfl
  · exact .inr (raiseFault_readReg _ _ s (by decide) (by decide))
  · exact .inr (raiseFault_readReg _ _ s (by decide) (by decide))

/-- Settles O52: of all a step can do, only reset and the commands named reach RESULT. -/
theorem onlyFiveCommandsChangeResult : Obligations.OnlyFiveCommandsChangeResult := by
  intro s t h hchange
  rcases step_registers h with ⟨hr, _⟩ | ⟨_, hk | ⟨c, info, hf⟩ | ⟨w, i, hp, hd, he⟩ | ⟨r, w, _, hw, _, rfl⟩⟩
  · exact .inl hr
  · exact absurd (hk .result) hchange
  · exact absurd ((hf _).trans (raiseFault_readReg c info s (by decide) (by decide))) hchange
  · rcases exec_keepsResult he with ⟨hi, hcol⟩ | hk
    · exact .inr ⟨w, i, hp, hd, hi, hcol⟩
    · exact absurd hk hchange
  · exact absurd (readReg_writeReg_readOnly w (s.setPending s.pending.tail) rfl hw) hchange

/-! ## The step, the register layouts and the tables -/

/-- Settles O8: the write to CMD executes the word, and the word is the command. -/
theorem stepRunsDecodedCommand : Obligations.StepRunsDecodedCommand := by
  intro s w i hp hd
  rw [step_presents hp, accessAt_command, executeWord_command _ hd]

/-- Settles O10: there is no event to take. -/
theorem stepWithNothingPresentedKeepsTheState : Obligations.StepWithNothingPresentedKeepsTheState := by
  intro s h
  simp only [step, nextEvent, h]

/-- Settles O37: STATUS is 16 CAUSE + 2 ZCROP + ERR. -/
theorem statusLayout : Obligations.StatusLayout := by
  refine ⟨fun s => ?_, rfl, rfl, rfl, rfl, rfl, rfl⟩
  have hnat : (readReg .status s).toNat = _ := statusWord_toNat s.status
  have hz := s.status.zcrop.toNat_le
  have he := s.status.err.toNat_le
  exact ⟨statusWord_err s.status, statusWord_zcrop s.status, by omega, by omega⟩

/-- Settles O44: each two-halves register is its low and high fields, and ASPECT is A. -/
theorem dimensionFields : Obligations.DimensionFields := fun s =>
  ⟨halves_toNat s.srcdim, halves_toNat s.griddim, halves_toNat s.cropxy, halves_toNat s.cropwh, rfl,
    srcWidth_lt s, gridCols_lt s, (lowHalf s.cropxy).isLt, (lowHalf s.cropwh).isLt⟩

/-- Settles O47: each field of State.reset, read. -/
theorem stateRightAfterReset : Obligations.StateRightAfterReset :=
  ⟨rfl, rfl, rfl, rfl, rfl, rfl, rfl, rfl, rfl, rfl, rfl, rfl⟩

/-- Each threshold is the midpoint of its two stops, rounded up (R34). -/
theorem romT_eq_midpoint : ∀ k < 5, romT.getD k 0 = (romStop.getD k 0 + romStop.getD (k + 1) 0 + 1) / 2 := by decide

/-- Every table entry fits 8 bits (R41). -/
theorem romTables_lt : ∀ x ∈ romStop ++ romT ++ romGrey, x < 256 := by decide

/-- Settles O57: the tables as written, the grey entries by their closed form. -/
theorem constantTables : Obligations.ConstantTables := by
  refine ⟨rfl, rfl, romT_eq_midpoint, rfl, greyEntry_eq (by decide), greyEntry_eq (by decide),
    fun k hk h1 => ?_, romTables_lt⟩
  rw [greyEntry_eq (by omega), if_neg (by omega), if_neg (by omega)]

end Sys2Proof.Machine

namespace Sys2Proof

/-! ## The operand layouts and the round trip (30_encoding.md R71, R73, R76) -/

/-- An operand laid out as three bytes gives the fields of formats RGB and GREY (R71). -/
theorem fields_of_operand_bytes {w : Word} {a b c : Byte} (h : operandField w = a ++ b ++ c) :
    upperField w = a ∧ middleField w = b ∧ lowerField w = c := by
  have hnat := congrArg BitVec.toNat h
  rw [operandField_toNat, bytes_toNat] at hnat
  have ha := a.isLt
  have hb := b.isLt
  have hc := c.isLt
  refine ⟨?_, ?_, ?_⟩ <;> apply BitVec.eq_of_toNat_eq
  · rw [upperField_toNat]; omega
  · rw [middleField_toNat]; omega
  · rw [lowerField_toNat]; omega

/-- An operand laid out as a byte and a half gives the fields of format COL (R71). -/
theorem fields_of_operand_column {w : Word} {a : Byte} {col : Half} (h : operandField w = a ++ col) :
    upperField w = a ∧ columnField w = col := by
  have hnat := congrArg BitVec.toNat h
  rw [operandField_toNat, append_toNat] at hnat
  have ha := a.isLt
  have hcol := col.isLt
  constructor <;> apply BitVec.eq_of_toNat_eq
  · rw [upperField_toNat]; omega
  · rw [columnField_toNat]; omega

/-- The word of a command decodes to the command: its opcode selects the command's branch, and the fields read there are
those the layout of the operand put in (R71, R73, R76). -/
theorem decodeWord_encode (i : Instr) : decodeWord (encode i) = .command i := by
  obtain ⟨hop, hoperand⟩ := Laws.EncodedFields.of_any i
  cases i with
  | luma r g b | sat r g b | qcolor r g b =>
    obtain ⟨hr, hg, hb⟩ := fields_of_operand_bytes hoperand
    simp [decodeWord, hop, opcodeOf, hr, hg, hb]
  | qgrey y l =>
    obtain ⟨hzero, hl, hy⟩ := fields_of_operand_bytes hoperand
    simp [decodeWord, hop, opcodeOf, hzero, hl, hy]
  | crop => simp [decodeWord, hop, opcodeOf, hoperand, operandOf]
  | mirror col =>
    obtain ⟨hzero, hcol⟩ := fields_of_operand_column hoperand
    simp [decodeWord, hop, opcodeOf, hzero, hcol]

/-- Settles O1: the bytes decode as their word, and the word as its command. -/
theorem decodeOfEncode : Obligations.DecodeOfEncode := fun i => by
  rw [encodeBytes, decode_lanesOf, decodeWord_encode]

end Sys2Proof

namespace Sys2Proof.Machine

/-! ## Legal accesses by their offsets (20_memory.md R53) -/

/-- The readable registers lie at the nine word offsets 0x04 to 0x24 (R23). -/
theorem exists_readable_iff (off : Nat) :
    (∃ r, off = regOffset r ∧ readable r = true) ↔ off % 4 = 0 ∧ 0x04 ≤ off ∧ off ≤ 0x24 := by
  constructor
  · rintro ⟨r, rfl, hr⟩
    cases r <;> simp [regOffset, readable] at hr ⊢
  · rintro ⟨hmod, hlow, hhigh⟩
    obtain ⟨k, rfl⟩ : ∃ k, off = 4 * (k + 1) := ⟨off / 4 - 1, by omega⟩
    have hk : k < 9 := by omega
    have hall : ∀ k < 9, ∃ r ∈ allRegs, 4 * (k + 1) = regOffset r ∧ readable r = true := by decide
    obtain ⟨r, _, hr⟩ := hall k hk
    exact ⟨r, hr⟩

/-- The writable registers lie at 0x00 and at the four word offsets 0x10 to 0x1C (R23). -/
theorem exists_writable_iff (off : Nat) :
    (∃ r, off = regOffset r ∧ writable r = true) ↔ off % 4 = 0 ∧ (off = 0x00 ∨ (0x10 ≤ off ∧ off ≤ 0x1C)) := by
  constructor
  · rintro ⟨r, rfl, hr⟩
    cases r <;> simp [regOffset, writable] at hr ⊢
  · rintro ⟨hmod, rfl | ⟨hlow, hhigh⟩⟩
    · exact ⟨.cmd, rfl, rfl⟩
    · obtain ⟨k, rfl⟩ : ∃ k, off = 4 * (k + 4) := ⟨off / 4 - 4, by omega⟩
      have hk : k < 4 := by omega
      have hall : ∀ k < 4, ∃ r ∈ allRegs, 4 * (k + 4) = regOffset r ∧ writable r = true := by decide
      obtain ⟨r, _, hr⟩ := hall k hk
      exact ⟨r, hr⟩

/-- An access is legal when it moves a word at the offset of a register that allows its direction (R53). -/
theorem legalReg_isSome_iff (off : Nat) (x : Transfer) : (legalReg off x).isSome = true ↔
    transferWidth x = .word ∧ ∃ r, off = regOffset r ∧ allows r x = true := by
  simp only [Option.isSome_iff_exists, legalReg_eq_some, exists_and_left]

/-- Settles O38: the directions' offsets are those of the readable and of the writable registers. -/
theorem legalAccesses : Obligations.LegalAccesses := by
  refine ⟨fun off x => ⟨?_, fun r hr => ?_⟩, rfl, rfl, rfl, rfl, rfl, rfl, rfl, rfl, rfl, rfl⟩
  · rw [legalReg_isSome_iff]
    cases x with
    | read n => simp [allows, isWrite, exists_readable_iff]
    | write d => simp [allows, isWrite, exists_writable_iff]
  · obtain ⟨_, rfl, _⟩ := legalReg_eq_some.1 hr
    cases r <;> simp [regOffset]

/-! ## The bytes of the window (20_memory.md R54) -/

/-- Settles O42: the byte is the lane, the lane a quotient of the word, and the lanes make the word. -/
theorem byteLanesAreLittleEndian : Obligations.ByteLanesAreLittleEndian := fun s r hr =>
  ⟨fun k hk => by rw [windowByte_reg s hr hk, laneOf_eq _ hk], wordOfLanes_laneOf _⟩

/-- A byte reads the same in two states with the same window when the register it is a lane of does (R54). -/
theorem windowByte_congr {s t : State} {a : Nat} (hwin : t.window = s.window)
    (hreg : ∀ r k, k < 4 → a = s.base + regOffset r + k → readReg r t = readReg r s) :
    windowByte t a = windowByte s a := by
  have hbase := base_congr hwin
  rcases windowByte_cases s a with hs | ⟨r, k, hr, hk, rfl, hs⟩
  · rcases windowByte_cases t a with ht | ⟨r, k, hr, hk, rfl, _⟩
    · rw [hs, ht]
    · rw [hbase, windowByte_reg s hr hk] at hs
      exact absurd hs (by simp)
  · rw [hs, ← hreg r k hk rfl, ← hbase, windowByte_reg t hr hk]

/-- The byte offsets of a register, one by one (R54). -/
theorem add_mem_bytesOfReg (r : Reg) {k : Nat} (hk : k < 4) : regOffset r + k ∈ bytesOfReg r := by
  interval_cases k <;> simp [bytesOfReg]

/-- Keeping all registers but some keeps all bytes but theirs (R54). -/
theorem KeepsRegisters.keepsBytes {written : List Reg} {s t : State} (h : KeepsRegisters written s t)
    (hwin : t.window = s.window) : KeepsBytes (written.flatMap bytesOfReg) s t := by
  intro a ha
  refine windowByte_congr hwin fun r k hk hak => h r fun hr => ?_
  exact ha _ (List.mem_flatMap_of_mem hr (add_mem_bytesOfReg r hk)) (by omega)

/-- Writing RESULT leaves every other byte (R25). -/
theorem setResult_keepsBytes (s : State) (v : Half) : KeepsBytes (bytesOfReg .result) s (s.setResult v) := by
  have h : KeepsRegisters [.result] s (s.setResult v) := fun r hr => readReg_setResult_ne s v (by simpa using hr)
  simpa using h.keepsBytes rfl

/-- Recording a fault leaves every register but STATUS and FAULTINFO (R172). -/
theorem raiseFault_keepsRegisters (c : FaultCause) (info : Word) (s : State) :
    KeepsRegisters [.status, .faultInfo] s (raiseFault c info s) := fun r hr => by
  obtain ⟨hstatus, hinfo⟩ : r ≠ .status ∧ r ≠ .faultInfo := by simpa using hr
  exact raiseFault_readReg c info s hstatus hinfo

/-- Recording a fault leaves every byte but those of STATUS and FAULTINFO (R172). -/
theorem raiseFault_keepsBytes (c : FaultCause) (info : Word) (s : State) :
    KeepsBytes (bytesOfReg .status ++ bytesOfReg .faultInfo) s (raiseFault c info s) := by
  simpa using (raiseFault_keepsRegisters c info s).keepsBytes (raiseFault_rest c info s).1

/-- Storing a crop leaves every byte but those of STATUS, CROPXY and CROPWH (R144). -/
theorem storeCrop_keepsBytes (w h : Nat) (s : State) :
    KeepsBytes (bytesOfReg .status ++ bytesOfReg .cropxy ++ bytesOfReg .cropwh) s (storeCrop w h s) := by
  have hreg : KeepsRegisters [.status, .cropxy, .cropwh] s (storeCrop w h s) := fun r hr => by
    cases r with
    | status | cropxy | cropwh => simp at hr
    | _ => rfl
  simpa using hreg.keepsBytes rfl

/-- Settles O32: each outcome of a command keeps the bytes of the registers it does not write. -/
theorem commandsKeepEveryOtherByte : Obligations.CommandsKeepEveryOtherByte := by
  intro s t
  refine ⟨?_, fun col h => ⟨fun hcol => ?_, fun hcol => ?_⟩, fun h => ⟨fun hd => ?_, fun hd => ?_⟩⟩
  · rintro i ⟨r, g, b, hi⟩ h
    rcases exec_cases h with ⟨_, _, v, rfl⟩ | ⟨rfl, _⟩ | ⟨rfl, _⟩ | ⟨col, rfl, _⟩
    · exact setResult_keepsBytes s v
    all_goals simp at hi
  · obtain rfl := Host.Outcome.next.inj ((exec_mirror_eq hcol).symm.trans h)
    exact setResult_keepsBytes s _
  · obtain rfl := Host.Outcome.next.inj ((exec_mirror_range hcol).symm.trans h)
    exact raiseFault_keepsBytes _ _ s
  · obtain rfl := Host.Outcome.next.inj ((exec_crop_eq hd).symm.trans h)
    exact storeCrop_keepsBytes _ _ s
  · obtain rfl := Host.Outcome.next.inj ((exec_crop_degenerate hd).symm.trans h)
    exact raiseFault_keepsBytes _ _ s

/-! ## A command run again (20_memory.md R57) -/

/-- Recording a fault leaves SRCDIM, GRIDDIM and ASPECT, from which CROP and MIRROR take their inputs (R172). -/
theorem raiseFault_inputs (c : FaultCause) (info : Word) (s : State) :
    cropDegenerate (raiseFault c info s) = cropDegenerate s ∧ gridCols (raiseFault c info s) = gridCols s := by
  rcases raiseFault_cases c info s with ⟨_, e⟩ | ⟨_, e⟩ <;> rw [e] <;> exact ⟨rfl, rfl⟩

/-- Settles O33: no command writes a register it reads, and a fault already recorded is kept. -/
theorem repeatingACommandChangesNothing : Obligations.RepeatingACommandChangesNothing := by
  intro i s t h
  cases i with
  | luma r g b | sat r g b | qgrey y l | qcolor r g b =>
    obtain rfl := Host.Outcome.next.inj h
    rfl
  | crop =>
    cases hd : cropDegenerate s with
    | false =>
      obtain rfl := Host.Outcome.next.inj ((exec_crop_eq hd).symm.trans h)
      exact exec_crop_eq hd
    | true =>
      obtain rfl := Host.Outcome.next.inj ((exec_crop_degenerate hd).symm.trans h)
      rw [exec_crop_degenerate ((raiseFault_inputs _ _ s).1.trans hd), raiseFault_twice]
  | mirror col =>
    rcases Nat.lt_or_ge col.toNat (gridCols s) with hcol | hcol
    · obtain rfl := Host.Outcome.next.inj ((exec_mirror_eq hcol).symm.trans h)
      exact exec_mirror_eq hcol
    · obtain rfl := Host.Outcome.next.inj ((exec_mirror_range hcol).symm.trans h)
      rw [exec_mirror_range ((raiseFault_inputs _ _ s).2.trans_le hcol), raiseFault_twice]

/-! ## Accesses: reads, illegal accesses, and those outside the window (20_memory.md R50, R52, R55) -/

/-- Settles O40: the read answers in the state with the access taken. -/
theorem legalReadHasNoSideEffect : Obligations.LegalReadHasNoSideEffect := by
  intro s r hr hp
  refine ⟨_, (step_presents hp).trans (accessAt_read _ hr), fun q => ?_, ?_, rfl, rfl, rfl⟩
  · rw [readReg_answer, readReg_setPending]
  · rw [State.answer_answers, State.setPending_answers, readReg_setPending]

/-- A step that takes an access outside the window (R50). -/
theorem step_outside {s : State} {a : Access} (hp : s.pending.head? = some (.access a)) (ho : s.offsetOf a.addr = none) :
    step s = .next (s.setPending s.pending.tail) := by
  obtain ⟨rest, hl⟩ : ∃ rest, s.pending = .access a :: rest := List.head?_eq_some_iff.1 hp
  have hrest : (s.setPending rest).offsetOf a.addr = none := (offsetOf_congr (State.setPending_window s rest) _).trans ho
  simp only [step, nextEvent, hl, hostEvent, hostAccess, hrest, List.tail_cons]

/-- Settles O43: the step takes the access and nothing else. -/
theorem accessOutsideTheWindowIsNotDecoded : Obligations.AccessOutsideTheWindowIsNotDecoded := fun s _ hp ho =>
  ⟨_, step_outside hp (offsetOf_eq_none.2 ho), fun r => readReg_setPending r s _, rfl, rfl, rfl, rfl⟩

/-- Recording a fault is what R172 says of it, for the code of its cause (R170). -/
theorem raiseFault_recordsFault (c : FaultCause) (info : Word) (s : State) :
    RecordsFault (causeCode (some c)).toNat info s (raiseFault c info s) := by
  refine ⟨fun h => ?_, fun h => ?_, raiseFault_keepsRegisters c info s⟩
  · rw [readReg, statusWord_err] at h
    rcases raiseFault_cases c info s with ⟨herr, _⟩ | ⟨_, e⟩
    · exact absurd (herr.symm.trans h) (by simp)
    · rw [e]
      exact ⟨by simp only [readReg, statusWord_toNat, statusWord_zcrop, State.setFaultRecord_status, Bool.toNat_true], rfl⟩
  · rw [readReg, statusWord_err] at h
    rw [raiseFault, if_pos h]
    exact ⟨rfl, rfl⟩

/-- What is recorded is a matter of the registers of the state after. -/
theorem RecordsFault.congr {code : Nat} {info : Word} {s t u : State} (h : RecordsFault code info s t)
    (hreg : ∀ r, readReg r u = readReg r t) : RecordsFault code info s u := by
  obtain ⟨hfirst, hlater, hkeep⟩ := h
  refine ⟨?_, ?_, fun r hr => (hreg r).trans (hkeep r hr)⟩ <;> simpa only [hreg]

/-- The registers after an illegal access are those after its fault (R55). -/
theorem readReg_illegalAccess (r : Reg) (off : Nat) (x : Transfer) (s : State) :
    readReg r (illegalAccess off x s) = readReg r (raiseFault .busAccess (busInfo off x) s) := by
  rcases illegalAccess_eq off x s with e | ⟨d, e⟩ <;> rw [e]
  exact readReg_answer r _ d

/-- FAULTINFO of an illegal access in numbers: OFFSET, 256 for a write, 512 times SIZE (R27). -/
theorem busInfo_eq {off : Nat} (x : Transfer) (ho : off < 64) :
    busInfo off x = BitVec.ofNat 32 (off + (if isWrite x then 256 else 0) +
      (if transferWidth x = .word then 1024 else if transferWidth x = .half then 512 else 0)) := by
  apply BitVec.eq_of_toNat_eq
  simp only [busInfo, append_toNat, BitVec.toNat_ofNat, BitVec.toNat_ofBool, BitVec.ofNat_eq_ofNat]
  cases isWrite x <;> cases transferWidth x <;> simp [sizeCode] <;> omega

/-- An illegal access leaves the window, the reset line and the host's list (R55). -/
theorem illegalAccess_rest (off : Nat) (x : Transfer) (s : State) :
    (illegalAccess off x s).window = s.window ∧ (illegalAccess off x s).inReset = s.inReset ∧
    (illegalAccess off x s).pending = s.pending := by
  obtain ⟨hwindow, hreset, hpending, _, _⟩ := raiseFault_rest .busAccess (busInfo off x) s
  rcases illegalAccess_eq off x s with e | ⟨d, e⟩ <;> rw [e] <;> exact ⟨hwindow, hreset, hpending⟩

/-- An illegal read answers zero in its own size (R55). -/
theorem illegalAccess_read_answers (off : Nat) (n : Width) (s : State) :
    (illegalAccess off (.read n) s).answers = s.answers ++ [zeroData n] := by
  obtain ⟨_, _, _, hanswers, _⟩ := raiseFault_rest .busAccess (busInfo off (.read n)) s
  rw [illegalAccess, answerZero, State.answer_answers, hanswers]

/-- An illegal write answers nothing (R55). -/
theorem illegalAccess_write_answers (off : Nat) (d : BusData) (s : State) :
    (illegalAccess off (.write d) s).answers = s.answers := by
  obtain ⟨_, _, _, hanswers, _⟩ := raiseFault_rest .busAccess (busInfo off (.write d)) s
  exact hanswers

/-- Settles O39: the illegal access records its fault in the state with the access taken, and answers zero to a read. -/
theorem illegalAccessFaults : Obligations.IllegalAccessFaults := by
  intro s off x hp hl
  obtain ⟨hwindow, hreset, hpending⟩ := illegalAccess_rest off x (s.setPending s.pending.tail)
  refine ⟨_, (step_presents hp).trans (accessAt_illegal hl), ?_, hwindow, hreset, hpending, fun hw => ?_, ?_, ?_, ?_⟩
  · rw [← busInfo_eq x hp.1]
    exact (raiseFault_recordsFault .busAccess (busInfo off x) s).congr fun r => by
      rw [readReg_illegalAccess, readReg_raiseFault_setPending]
  · cases x with
    | read n => simp [isWrite] at hw
    | write d => exact illegalAccess_write_answers off d _
  all_goals
    rintro rfl
    exact illegalAccess_read_answers off _ _

/-! ## What a step does to the model's own fields -/

/-- A command word leaves the model's own fields. -/
theorem executeWord_hostSide {w : Word} {s t : State} (h : executeWord w s = .next t) : KeepsHostSide s t := by
  have hfault (c : FaultCause) : KeepsHostSide s (raiseFault c w s) := by
    obtain ⟨hwindow, hreset, hpending, hanswers, _⟩ := raiseFault_rest c w s
    exact ⟨hwindow, hreset, hpending, hanswers⟩
  rcases executeWord_cases h with ⟨i, _, hi⟩ | ⟨_, rfl⟩ | ⟨_, rfl⟩
  · exact exec_hostSide hi
  · exact hfault _
  · exact hfault _

/-- An access in the window leaves the window's place and the host's list (R52). -/
theorem accessAt_rest {off : Nat} {x : Transfer} {s t : State} (h : accessAt off x s = .next t) :
    t.window = s.window ∧ t.pending = s.pending := by
  rcases accessAt_cases h with ⟨_, rfl⟩ | ⟨_, w, _, he⟩ | ⟨r, w, _, _, _, _, rfl⟩ | ⟨r, _, _, _, rfl⟩
  · obtain ⟨hwindow, _, hpending⟩ := illegalAccess_rest off x s
    exact ⟨hwindow, hpending⟩
  · obtain ⟨hwindow, _, hpending, _⟩ := executeWord_hostSide he
    exact ⟨hwindow, hpending⟩
  · obtain ⟨hwindow, _, hpending, _⟩ := writeReg_hostSide r w s
    exact ⟨hwindow, hpending⟩
  · exact ⟨rfl, rfl⟩

theorem dataWidth_zeroData (n : Width) : dataWidth (zeroData n) = n := by cases n <;> rfl

/-- A read in the window adds one value of its size to the answers, legal or not (R52, R55). -/
theorem accessAt_read_answers {off : Nat} {n : Width} {s t : State} (h : accessAt off (.read n) s = .next t) :
    ∃ d, t.answers = s.answers ++ [d] ∧ dataWidth d = n := by
  rcases accessAt_cases h with ⟨_, rfl⟩ | ⟨_, w, hx, _⟩ | ⟨r, w, _, _, _, hx, _⟩ | ⟨r, _, _, hx, rfl⟩
  · exact ⟨_, illegalAccess_read_answers off n s, dataWidth_zeroData n⟩
  · cases hx
  · cases hx
  · cases hx
    exact ⟨_, rfl, rfl⟩

/-- A write in the window adds nothing to the answers, whatever it stores, executes or faults (R52, R55). -/
theorem accessAt_write_answers {off : Nat} {d : BusData} {s t : State} (h : accessAt off (.write d) s = .next t) :
    t.answers = s.answers := by
  rcases accessAt_cases h with ⟨_, rfl⟩ | ⟨_, w, _, he⟩ | ⟨r, w, _, _, _, _, rfl⟩ | ⟨r, _, _, hx, _⟩
  · exact illegalAccess_write_answers off d s
  · obtain ⟨_, _, _, hanswers⟩ := executeWord_hostSide he
    exact hanswers
  · obtain ⟨_, _, _, hanswers⟩ := writeReg_hostSide r w s
    exact hanswers
  · cases hx

/-- A step that goes on leaves the window in place and takes the head of the host's list, if any (R50, R52). -/
theorem step_window_pending {s t : State} (h : step s = .next t) : t.window = s.window ∧ t.pending = s.pending.tail := by
  rcases step_cases h with ⟨hl, rfl⟩ | ⟨_, rfl⟩ | ⟨_, rfl⟩ | ⟨_, rfl⟩ | ⟨off, x, _, ha⟩
  · exact ⟨rfl, by simp [hl]⟩
  · exact ⟨rfl, rfl⟩
  · exact ⟨rfl, rfl⟩
  · exact ⟨rfl, rfl⟩
  · exact accessAt_rest ha

/-- A step that takes no read in the window answers nothing (R52, R216). -/
theorem step_answers_of_no_read {s t : State} (h : step s = .next t) (hno : ¬ ∃ off n, Presents s off (.read n)) :
    t.answers = s.answers := by
  rcases step_cases h with ⟨_, rfl⟩ | ⟨_, rfl⟩ | ⟨_, rfl⟩ | ⟨_, rfl⟩ | ⟨off, x, hp, ha⟩
  · rfl
  · rfl
  · rfl
  · rfl
  · cases x with
    | read n => exact absurd ⟨off, n, hp⟩ hno
    | write d => exact (accessAt_write_answers ha).trans (State.setPending_answers s _)

/-- Settles O45: a presented read is the access the step takes; without one nothing is answered. -/
theorem stepTakesOneEventAndAnswersReads : Obligations.StepTakesOneEventAndAnswersReads := by
  intro s t h
  obtain ⟨hwindow, hpending⟩ := step_window_pending h
  refine ⟨hwindow, hpending, fun ⟨off, n, hp⟩ => ?_, step_answers_of_no_read h⟩
  rw [step_presents hp] at h
  obtain ⟨d, hanswers, hd⟩ := accessAt_read_answers h
  exact ⟨d, hanswers, off, n, hp, hd⟩

/-- The placed command is the legal write of the word to CMD (R70; log entry 8). -/
theorem placeCommand_presents (s : State) (w : Word) : PresentsCommand (placeCommand s w) w :=
  ⟨by decide, rfl, rfl⟩

/-- Settles O9: the next step takes the placed write, and the state with it taken is s with reset released. -/
theorem placedWordIsExecutedNext : Obligations.PlacedWordIsExecutedNext := by
  intro s w
  have hw : BitVec.ofNat 32 (w % 2 ^ 32) = BitVec.ofNat 32 w := BitVec.eq_of_toNat_eq (by simp)
  rw [State.withFetchWord, hw, step_presents (placeCommand_presents s _), accessAt_command]
  rfl

/-! ## The assembler's lines (30_encoding.md R77, R78) -/

/-- A range check that says p refuses exactly where p fails. -/
theorem inRange_of_iff {α : Type} {ok : Bool} {p : Prop} [Decidable p] (h : ok = true ↔ p) (a : α) :
    inRange ok a = if p then some a else none := by
  simp only [inRange, h]

/-- An accepted operand is in range, and is what was given. -/
theorem inRange_eq_some {α : Type} {ok : Bool} {a b : α} : inRange ok a = some b ↔ ok = true ∧ a = b := by
  cases ok <;> simp [inRange]

theorem readable_iff (r : Reg) : readable r = true ↔ r ≠ .cmd := by cases r <;> decide

theorem writable_iff (r : Reg) :
    writable r = true ↔ r = .cmd ∨ r = .thresh ∨ r = .srcdim ∨ r = .griddim ∨ r = .aspect := by cases r <;> decide

theorem isDimension_iff (r : Reg) : isDimension r = true ↔ r = .srcdim ∨ r = .griddim := by cases r <;> decide

/-- Two fields side by side as a sum: the OR of R77 and R78 adds, as the low field does not reach the high one. -/
theorem shiftLeft_or_eq {lo k : Nat} (hi : Nat) (h : lo < 2 ^ k) : hi <<< k ||| lo = hi * 2 ^ k + lo := by
  rw [← Nat.shiftLeft_add_eq_or_of_lt h, Nat.shiftLeft_eq]

/-- The word of format RGB fits 32 bits when its fields fit their bytes (R71). -/
theorem rgbWord_lt {opcode r g b : Nat} (ho : opcode < 256) (hr : r < 256) (hg : g < 256) (hb : b < 256) :
    rgbWord opcode r g b < 2 ^ 32 := by
  rw [rgbWord, Nat.shiftLeft_eq, Nat.shiftLeft_eq, Nat.shiftLeft_eq]
  exact Nat.or_lt_two_pow (Nat.or_lt_two_pow (Nat.or_lt_two_pow (by omega) (by omega)) (by omega)) (by omega)

/-- A command line's word fits 32 bits, so the write of it drops no bit (R70, R77). -/
theorem asmWord_lt {line : AsmLine} {n : Nat} (h : asmWord line = some n) : n < 2 ^ 32 := by
  cases line with
  | luma r g b | sat r g b | qcolor r g b =>
    obtain ⟨hrange, rfl⟩ := inRange_eq_some.1 h
    simp only [Bool.and_eq_true, decide_eq_true_eq] at hrange
    obtain ⟨⟨hr, hg⟩, hb⟩ := hrange
    exact rgbWord_lt (by decide) hr hg hb
  | qgrey y l =>
    obtain ⟨hrange, rfl⟩ := inRange_eq_some.1 h
    simp only [Bool.and_eq_true, decide_eq_true_eq] at hrange
    exact Nat.or_lt_two_pow (Nat.or_lt_two_pow (by decide) (by rw [Nat.shiftLeft_eq]; omega)) (by omega)
  | qgreyDefault y =>
    obtain ⟨hrange, rfl⟩ := inRange_eq_some.1 h
    simp only [decide_eq_true_eq] at hrange
    exact Nat.or_lt_two_pow (by decide) (by omega)
  | mirror col =>
    obtain ⟨hrange, rfl⟩ := inRange_eq_some.1 h
    simp only [decide_eq_true_eq] at hrange
    exact Nat.or_lt_two_pow (by decide) (by omega)
  | crop =>
    obtain rfl := Option.some.inj h
    decide
  | cmd w =>
    obtain ⟨hrange, rfl⟩ := inRange_eq_some.1 h
    exact of_decide_eq_true hrange
  | wr _ _ | rd _ | wrdim _ _ _ | bytewr _ _ | rd8 _ => cases h

/-- An access in the window of a BPQ at base, which is legal exactly when p (R53). -/
def IsWindowAccess (base : Nat) (p : Prop) (e : HostEvent) : Prop :=
  ∃ off x, e = .access { addr := base + off, transfer := x } ∧ off < 64 ∧ ((legalReg off x).isSome = true ↔ p)

/-- A line that writes a word to a writable register is a legal access in the window (R53, R78). -/
theorem wordWrite_isWindowAccess {r : Reg} {p : Prop} (base v : Nat) (hr : writable r = true) (hp : p) :
    IsWindowAccess base p (wordWrite base r v) := by
  have hl : legalReg (regOffset r) (.write (.word (BitVec.ofNat 32 v))) = some r := legalReg_eq_some.2 ⟨rfl, rfl, hr⟩
  obtain ⟨_, hle⟩ := regOffset_bounds r
  exact ⟨_, _, rfl, by omega, iff_of_true (by rw [hl]; rfl) hp⟩

/-- A line that reads a readable register is a legal access in the window (R53, R78). -/
theorem wordRead_isWindowAccess {r : Reg} {p : Prop} (base : Nat) (hr : readable r = true) (hp : p) :
    IsWindowAccess base p (.access { addr := base + regOffset r, transfer := .read .word }) := by
  have hl : legalReg (regOffset r) (.read .word) = some r := legalReg_eq_some.2 ⟨rfl, rfl, hr⟩
  obtain ⟨_, hle⟩ := regOffset_bounds r
  exact ⟨_, _, rfl, by omega, iff_of_true (by rw [hl]; rfl) hp⟩

/-- A line that does not move a word is an illegal access in the window (R53). -/
theorem narrow_isWindowAccess {off : Nat} {x : Transfer} {p : Prop} (base : Nat) (ho : off < 64)
    (hx : transferWidth x ≠ .word) (hp : ¬ p) : IsWindowAccess base p (.access { addr := base + off, transfer := x }) :=
  ⟨off, x, rfl, ho, iff_of_false (fun h => hx ((legalReg_isSome_iff off x).1 h).1) hp⟩

theorem asmWrite_isWindowAccess {base v : Nat} {r : Reg} {e : HostEvent} {p : Prop} (h : asmWrite base r v = some e)
    (hp : p) : IsWindowAccess base p e := by
  obtain ⟨hrange, rfl⟩ := inRange_eq_some.1 h
  exact wordWrite_isWindowAccess base v ((Bool.and_eq_true _ _).mp hrange).1 hp

/-- A line that stands for a command word is a legal access in the window, the write to CMD (R77). -/
theorem assemble_command_isWindowAccess {base : Nat} {line : AsmLine} {e : HostEvent} {p : Prop}
    (hline : assemble base line = (asmWord line).bind (asmWrite base .cmd)) (h : assemble base line = some e) (hp : p) :
    IsWindowAccess base p e := by
  obtain ⟨n, _, hn⟩ := Option.bind_eq_some_iff.1 (hline.symm.trans h)
  exact asmWrite_isWindowAccess hn hp

/-- An accepted line is an access in the window, legal unless it moves a byte (R53, R77, R78). -/
theorem assemble_isWindowAccess {base : Nat} {line : AsmLine} {e : HostEvent} (h : assemble base line = some e) :
    IsWindowAccess base (¬ ∃ o v, line = .bytewr o v ∨ line = .rd8 o) e := by
  cases line with
  | wr r v => exact asmWrite_isWindowAccess h (by simp)
  | rd r =>
    obtain ⟨hr, rfl⟩ := inRange_eq_some.1 h
    exact wordRead_isWindowAccess base hr (by simp)
  | wrdim r hi lo =>
    obtain ⟨hrange, rfl⟩ := inRange_eq_some.1 h
    simp only [Bool.and_eq_true, isDimension_iff] at hrange
    obtain ⟨⟨hr, _⟩, _⟩ := hrange
    have hwr : writable r = true := by rcases hr with rfl | rfl <;> rfl
    exact wordWrite_isWindowAccess base _ hwr (by simp)
  | bytewr off v =>
    obtain ⟨hrange, rfl⟩ := inRange_eq_some.1 h
    simp only [Bool.and_eq_true, decide_eq_true_eq] at hrange
    exact narrow_isWindowAccess base hrange.1 (by simp [transferWidth, dataWidth]) (by simp)
  | rd8 off =>
    obtain ⟨hrange, rfl⟩ := inRange_eq_some.1 h
    exact narrow_isWindowAccess base (of_decide_eq_true hrange) (by simp [transferWidth]) (by simp)
  | _ => exact assemble_command_isWindowAccess rfl h (by simp)

/-- A line that stands for a command word is the write of that word to CMD: CMD is writable and the word fits (R77). -/
theorem assemble_command {base : Nat} {line : AsmLine}
    (hline : assemble base line = (asmWord line).bind (asmWrite base .cmd)) :
    assemble base line = (asmWord line).map (wordWrite base .cmd) := by
  rw [hline]
  cases h : asmWord line with
  | none => rfl
  | some n =>
    have hrange : (writable .cmd && decide (n < 2 ^ 32)) = true := decide_eq_true (asmWord_lt h)
    simp only [Option.bind_some, Option.map_some, asmWrite, inRange, hrange, if_true]

/-- The one-operand QGREY stands for 26 levels (R77). -/
theorem asmWord_qgreyDefault (y : Nat) : asmWord (.qgreyDefault y) = asmWord (.qgrey y 26) := by
  simp [asmWord]

/-- The word cmd W stands for, as the access it is (R78). -/
theorem assemble_cmd (base w : Nat) :
    assemble base (.cmd w) = if w < 2 ^ 32 then some (wordWrite base .cmd w) else none := by
  rw [assemble_command rfl, asmWord, inRange_of_iff decide_eq_true_iff, apply_ite (Option.map _)]
  rfl

/-- The halves of a wrdim line as the number R78 gives. -/
theorem assemble_wrdim (base hi lo : Nat) (r : Reg) : assemble base (.wrdim r hi lo) =
    if (r = .srcdim ∨ r = .griddim) ∧ hi < 65536 ∧ lo < 65536 then some (wordWrite base r (hi * 65536 + lo)) else none := by
  have hrange : (isDimension r && hi < 65536 && lo < 65536) = true ↔
      (r = .srcdim ∨ r = .griddim) ∧ hi < 65536 ∧ lo < 65536 := by simp [isDimension_iff, and_assoc]
  rw [assemble, inRange_of_iff hrange]
  split_ifs with h
  · exact congrArg (fun n => some (wordWrite base r n)) (shiftLeft_or_eq hi h.2.2)
  · rfl

/-- Settles O7: each form's own equation, and the accepted lines all at once. -/
theorem assembledLinesAreTheirAccesses : Obligations.AssembledLinesAreTheirAccesses := by
  refine ⟨fun base v r => ?_, fun base r => ?_, assemble_cmd, fun base line hline => ?_, fun base y => ?_, assemble_wrdim,
    fun base off v => ?_, fun base off => ?_, fun base line e => assemble_isWindowAccess⟩
  · exact inRange_of_iff (by simp [writable_iff]) _
  · exact inRange_of_iff (readable_iff r) _
  · obtain ⟨x, y, z, rfl | rfl | rfl | rfl | rfl | rfl | rfl⟩ := hline <;> exact assemble_command rfl
  · show (asmWord _).bind _ = (asmWord _).bind _
    rw [asmWord_qgreyDefault]
  · exact inRange_of_iff (by simp) _
  · exact inRange_of_iff decide_eq_true_iff _

end Sys2Proof.Machine

namespace Sys2Proof

/-! ## Every word by its fields: the encoding law's other direction, and the classes of words (30_encoding.md R73 to R76) -/

/-- OPERAND is its three bytes (R71, formats RGB and GREY). -/
theorem operandField_eq_bytes (w : Word) : operandField w = upperField w ++ middleField w ++ lowerField w := by
  apply BitVec.eq_of_toNat_eq
  rw [bytes_toNat, operandField_toNat, upperField_toNat, middleField_toNat, lowerField_toNat]
  omega

/-- OPERAND is its top byte and its low half (R71, format COL). -/
theorem operandField_eq_column (w : Word) : operandField w = upperField w ++ columnField w := by
  apply BitVec.eq_of_toNat_eq
  rw [append_toNat, operandField_toNat, upperField_toNat, columnField_toNat]
  omega

/-- A word with a command's opcode and operand is the command's encoding (R70). -/
theorem encode_eq_of_fields {w : Word} {i : Instr} (hop : opcodeField w = opcodeOf i)
    (hoperand : operandField w = operandOf i) : encode i = w := by
  rw [word_eq_fields w, hop, hoperand, encode]

/-- Settles O2: each branch of the decoder reads every field the layout of its command has, and the reserved ones as zero. -/
theorem encodeOfDecode : Obligations.EncodeOfDecode := by
  intro w i h
  have hbytes := operandField_eq_bytes w
  have hcolumn := operandField_eq_column w
  rcases decodeWord_cases w with ⟨hop, e⟩ | ⟨hop, e⟩ | ⟨hop, hzero, e⟩ | ⟨hop, e⟩ | ⟨hop, hzero, e⟩ | ⟨hop, hzero, e⟩ |
    ⟨_, e⟩ | ⟨_, e⟩ <;> cases e.symm.trans h
  · exact encode_eq_of_fields hop hbytes
  · exact encode_eq_of_fields hop hbytes
  · exact encode_eq_of_fields hop (by rw [hbytes, hzero]; rfl)
  · exact encode_eq_of_fields hop hbytes
  · exact encode_eq_of_fields hop hzero
  · exact encode_eq_of_fields hop (by rw [hcolumn, hzero]; rfl)

/-- An OPCODE as a number (R70). -/
theorem opcodeField_eq_iff (w : Word) {k : Nat} (hk : k < 256) :
    opcodeField w = BitVec.ofNat 8 k ↔ w.toNat / 2 ^ 24 = k := by
  rw [field_eq_iff _ hk, opcodeField_toNat]

theorem upperField_eq_zero_iff (w : Word) : upperField w = 0#8 ↔ w.toNat / 2 ^ 16 % 256 = 0 := by
  rw [← upperField_toNat]
  exact field_eq_iff _ (by decide)

theorem operandField_eq_zero_iff (w : Word) : operandField w = 0#24 ↔ w.toNat % 2 ^ 24 = 0 := by
  rw [← operandField_toNat]
  exact field_eq_iff _ (by decide)

/-- The decoder's answers in arithmetic on the word: which opcodes and which reserved fields give the two rejections (R74,
R75, R76). -/
theorem decodeWord_rejects_iff (w : Word) :
    (decodeWord w = .illegalOpcode ↔ w.toNat / 2 ^ 24 = 0 ∨ 7 ≤ w.toNat / 2 ^ 24) ∧
    (decodeWord w = .reservedField ↔
      (w.toNat / 2 ^ 24 = 3 ∧ w.toNat / 2 ^ 16 % 256 ≠ 0) ∨ (w.toNat / 2 ^ 24 = 5 ∧ w.toNat % 2 ^ 24 ≠ 0) ∨
        (w.toNat / 2 ^ 24 = 6 ∧ w.toNat / 2 ^ 16 % 256 ≠ 0)) := by
  have hcases := decodeWord_cases w
  simp only [upperField_eq_zero_iff, operandField_eq_zero_iff, ne_eq, BitVec.ofNat_eq_ofNat, opcodeField_eq_iff,
    Nat.reduceLT] at hcases
  rcases hcases with ⟨hop, e⟩ | ⟨hop, e⟩ | ⟨hop, hzero, e⟩ | ⟨hop, e⟩ | ⟨hop, hzero, e⟩ | ⟨hop, hzero, e⟩ | ⟨hop, e⟩ |
    ⟨hop, e⟩ <;> simp only [e, reduceCtorEq, false_iff, true_iff] <;> omega

/-- The decoder answers an illegal opcode, a reserved-field violation or a command (R75). -/
theorem exists_command_iff_not_rejected (w : Word) :
    (∃ i, decodeWord w = .command i) ↔ decodeWord w ≠ .illegalOpcode ∧ decodeWord w ≠ .reservedField := by
  cases decodeWord w <;> simp

/-- Settles O3: the arithmetic of the two rejections, and a command is what is left. -/
theorem decodeClassifiesEveryWord : Obligations.DecodeClassifiesEveryWord := fun w =>
  ⟨(decodeWord_rejects_iff w).1, (decodeWord_rejects_iff w).2, exists_command_iff_not_rejected w⟩

/-! ## The mask and match rows (30_encoding.md R73) -/

/-- The fields of a word of the opcode table: one of the six opcodes, its reserved bits zero (R73). -/
def CommandFields (w : Word) : Prop :=
  opcodeField w = 1 ∨ opcodeField w = 2 ∨ (opcodeField w = 3 ∧ upperField w = 0) ∨ opcodeField w = 4 ∨
    (opcodeField w = 5 ∧ operandField w = 0) ∨ (opcodeField w = 6 ∧ upperField w = 0)

/-- The decoder accepts by the fields of the opcode table (R76). -/
theorem exists_command_iff_fields (w : Word) : (∃ i, decodeWord w = .command i) ↔ CommandFields w := by
  rcases decodeWord_cases w with ⟨hop, e⟩ | ⟨hop, e⟩ | ⟨hop, hzero, e⟩ | ⟨hop, e⟩ | ⟨hop, hzero, e⟩ | ⟨hop, hzero, e⟩ |
    ⟨⟨hop, hne⟩ | ⟨hop, hne⟩ | ⟨hop, hne⟩, e⟩ | ⟨hop, e⟩ <;> simp_all [CommandFields]

/-- A row whose mask covers OPCODE selects on the opcode of its pattern and on OPERAND under its mask (R73). -/
theorem selects_iff {row : OpcodeRow} (hmask : opcodeField row.mask = BitVec.allOnes 8) (w : Word) :
    row.selects w = true ↔ opcodeField w = opcodeField row.pattern ∧
      operandField w &&& operandField row.mask = operandField row.pattern := by
  rw [OpcodeRow.selects, beq_iff_eq, ← append_inj, ← word_eq_fields, ← BitVec.and_allOnes (x := opcodeField w), ← hmask,
    ← append_and, ← word_eq_fields, ← word_eq_fields]

/-- Every row's mask covers OPCODE (R73). -/
theorem opcodeField_mask_of_mem : ∀ row ∈ opcodeRows, opcodeField row.mask = BitVec.allOnes 8 := by decide

/-- OPERAND under the mask of its top byte is zero where that byte is (R73, the rows of QGREY and MIRROR). -/
theorem operandField_and_upper_eq_zero_iff (w : Word) : operandField w &&& 0xFF0000 = 0 ↔ upperField w = 0 := by
  rw [operandField_eq_column, show (0xFF0000 : BitVec 24) = BitVec.allOnes 8 ++ (0 : Half) from rfl, append_and,
    show (0 : BitVec 24) = (0 : Byte) ++ (0 : Half) from rfl, append_inj, BitVec.and_allOnes]
  exact and_iff_left BitVec.and_zero

/-- The rows select by the fields of the opcode table: three by OPCODE alone, two with OPERAND's top byte, one with all of
OPERAND (R73). -/
theorem wellFormedWord_iff_fields (w : Word) : wellFormedWord w = true ↔ CommandFields w := by
  have hopcode {k : Byte} : opcodeField w = k ∧ operandField w &&& 0 = 0 ↔ opcodeField w = k := and_iff_left BitVec.and_zero
  have hupper {k : Byte} : opcodeField w = k ∧ operandField w &&& 0xFF0000 = 0 ↔ opcodeField w = k ∧ upperField w = 0 :=
    and_congr_right' (operandField_and_upper_eq_zero_iff w)
  have hall {k : Byte} : opcodeField w = k ∧ operandField w &&& BitVec.allOnes 24 = 0 ↔
      opcodeField w = k ∧ operandField w = 0 := by rw [BitVec.and_allOnes]
  simp only [wellFormedWord, opcodeRows, List.any_cons, List.any_nil, Bool.or_eq_true, Bool.or_false]
  refine or_congr ?luma (or_congr ?sat (or_congr ?qgrey (or_congr ?qcolor (or_congr ?crop ?mirror))))
  case luma | sat | qcolor => exact (selects_iff rfl w).trans hopcode
  case qgrey | mirror => exact (selects_iff rfl w).trans hupper
  case crop => exact (selects_iff rfl w).trans hall

/-- A selected word has the opcode of the row's pattern (R73). -/
theorem opcodeField_of_selects {row : OpcodeRow} {w : Word} (hrow : row ∈ opcodeRows) (h : row.selects w = true) :
    opcodeField w = opcodeField row.pattern := ((selects_iff (opcodeField_mask_of_mem row hrow) w).1 h).1

/-- No two rows have the same opcode (R73). -/
theorem opcodeRows_opcode_injective :
    ∀ a ∈ opcodeRows, ∀ b ∈ opcodeRows, opcodeField a.pattern = opcodeField b.pattern → a = b := by decide

/-- Settles O4: rows and decoder test the same fields, and a selected word's opcode tells the row. -/
theorem opcodeRowsSelectTheCommands : Obligations.OpcodeRowsSelectTheCommands := by
  refine ⟨fun w => (wellFormedWord_iff_fields w).trans (exists_command_iff_fields w).symm, fun w a b ha hb hsa hsb => ?_⟩
  exact opcodeRows_opcode_injective a ha b hb ((opcodeField_of_selects ha hsa).symm.trans (opcodeField_of_selects hb hsb))

/-! ## The words of the test vectors (95_test_vectors.md) -/

/-- Settles O5: the six command words are encodings, and the two others are rejected by their numbers. -/
theorem decodeOfSpecWords : Obligations.DecodeOfSpecWords :=
  ⟨decodeWord_encode (.luma 255 255 255), decodeWord_encode (.sat 100 90 80), decodeWord_encode (.qgrey 200 16),
    decodeWord_encode (.qcolor 255 0 0), decodeWord_encode .crop, decodeWord_encode (.mirror 79),
    (decodeWord_rejects_iff _).1.2 (by decide), (decodeWord_rejects_iff _).2.2 (by decide)⟩

end Sys2Proof

namespace Sys2Proof.Machine

/-! ## Writes of rejected words to CMD (30_encoding.md R74) -/

/-- A step that takes a word's write to CMD and answers with a fault of the word: the fault is recorded, the access taken and
nothing else is done (R52, R74). -/
theorem step_wordFault {s : State} {w : Word} {c : FaultCause} (hp : PresentsCommand s w)
    (he : ∀ t, executeWord w t = .next (raiseFault c w t)) :
    ∃ t, step s = .next t ∧ RecordsFault (causeCode (some c)).toNat w s t ∧ TakesEvent s t := by
  obtain ⟨hwindow, hreset, hpending, hanswers, _⟩ := raiseFault_rest c w (s.setPending s.pending.tail)
  refine ⟨_, (step_presents hp).trans ((accessAt_command w _).trans (he _)), ?_, hwindow, hreset, hpending, hanswers⟩
  exact (raiseFault_recordsFault c w s).congr fun r => readReg_raiseFault_setPending r c w s _

theorem executeWord_illegalOpcode {w : Word} (h : decodeWord w = .illegalOpcode) (s : State) :
    executeWord w s = .next (raiseFault .illegalOpcode w s) := by
  simp only [executeWord, h]

theorem executeWord_reservedField {w : Word} (h : decodeWord w = .reservedField) (s : State) :
    executeWord w s = .next (raiseFault .reservedField w s) := by
  simp only [executeWord, h]

/-- Settles O35: the word's number says how it is rejected, and the rejection is the fault the step records. -/
theorem illegalWordsFault : Obligations.IllegalWordsFault := by
  intro s w hp
  obtain ⟨hillegal, hreserved⟩ := decodeWord_rejects_iff w
  exact ⟨fun h => step_wordFault hp (executeWord_illegalOpcode (hillegal.2 h)),
    fun h => step_wordFault hp (executeWord_reservedField (hreserved.2 h))⟩

/-! ## The assembler's words (30_encoding.md R77) -/

/-- The word of format RGB as a sum: its fields do not overlap (R71, R77). -/
theorem rgbWord_eq (opcode : Nat) {r g b : Nat} (hr : r < 256) (hg : g < 256) (hb : b < 256) :
    rgbWord opcode r g b = opcode * 2 ^ 24 + (r * 2 ^ 16 + (g * 2 ^ 8 + b)) := by
  rw [rgbWord, Nat.or_assoc, Nat.or_assoc, shiftLeft_or_eq g hb, shiftLeft_or_eq r (by omega),
    shiftLeft_or_eq opcode (by omega)]

/-- The word of a command whose operand is three bytes is R77's formula for format RGB. -/
theorem rgbWord_eq_encode {i : Instr} {r g b : Nat} (hr : r < 256) (hg : g < 256) (hb : b < 256)
    (hoperand : operandOf i = BitVec.ofNat 8 r ++ BitVec.ofNat 8 g ++ BitVec.ofNat 8 b) :
    rgbWord (opcodeOf i).toNat r g b = (encode i).toNat := by
  rw [rgbWord_eq _ hr hg hb, encode_toNat, hoperand, bytes_toNat]
  simp only [BitVec.toNat_ofNat]
  omega

/-- QGREY's word is the word of format RGB with its top operand byte zero (R71, R77). -/
theorem qgreyWord_eq_encode {y l : Nat} (hy : y < 256) (hl : l < 256) :
    0x03 <<< 24 ||| l <<< 8 ||| y = (encode (.qgrey (BitVec.ofNat 8 y) (BitVec.ofNat 8 l))).toNat := by
  rw [← rgbWord_eq_encode (r := 0) (by decide) hl hy rfl]
  simp [rgbWord, opcodeOf]

/-- MIRROR's word by R77's formula for format COL. -/
theorem mirrorWord_eq_encode {col : Nat} (hcol : col < 65536) :
    0x06 <<< 24 ||| col = (encode (.mirror (BitVec.ofNat 16 col))).toNat := by
  rw [shiftLeft_or_eq _ (by omega), encode_toNat, operandOf, append_toNat]
  simp [opcodeOf, Nat.mod_eq_of_lt hcol]

/-- An RGB line in range is accepted as the encoding of its command (R77). -/
theorem inRange_rgbWord {i : Instr} {r g b : Nat} (hr : r < 256) (hg : g < 256) (hb : b < 256)
    (hoperand : operandOf i = BitVec.ofNat 8 r ++ BitVec.ofNat 8 g ++ BitVec.ofNat 8 b) :
    inRange (r < 256 && g < 256 && b < 256) (rgbWord (opcodeOf i).toNat r g b) = some (encode i).toNat :=
  inRange_eq_some.2 ⟨by simp [hr, hg, hb], rgbWord_eq_encode hr hg hb hoperand⟩

/-- A range check that fails refuses (R77). -/
theorem inRange_eq_none {α : Type} {ok : Bool} (h : ok = false) (a : α) : inRange ok a = none := by
  simp [inRange, h]

/-- Settles O6: in range each formula is its command's word, and out of range each check fails. -/
theorem assemblerWordsAreEncodings : Obligations.AssemblerWordsAreEncodings := by
  refine ⟨fun r g b hr hg hb => ?_, fun y l hy hl => ?_, by decide, fun col hcol => ?_, fun r g b h => ?_,
    fun y l h => ?_, fun y hy => ?_, fun col hcol => ?_⟩
  · exact ⟨inRange_rgbWord (i := .luma _ _ _) hr hg hb rfl, inRange_rgbWord (i := .sat _ _ _) hr hg hb rfl,
      inRange_rgbWord (i := .qcolor _ _ _) hr hg hb rfl⟩
  · have hqgrey {k : Nat} (hk : k < 256) :
        asmWord (.qgrey y k) = some (encode (.qgrey (BitVec.ofNat 8 y) (BitVec.ofNat 8 k))).toNat :=
      inRange_eq_some.2 ⟨by simp [hy, hk], qgreyWord_eq_encode hy hk⟩
    exact ⟨hqgrey hl, (asmWord_qgreyDefault y).trans (hqgrey (by decide))⟩
  · exact inRange_eq_some.2 ⟨decide_eq_true hcol, mirrorWord_eq_encode hcol⟩
  · have hrange : (decide (r < 256) && decide (g < 256) && decide (b < 256)) = false := by
      simp only [Bool.and_eq_false_iff, decide_eq_false_iff_not]
      omega
    exact ⟨inRange_eq_none hrange _, inRange_eq_none hrange _, inRange_eq_none hrange _⟩
  · have hrange : (decide (y < 256) && decide (l < 256)) = false := by
      simp only [Bool.and_eq_false_iff, decide_eq_false_iff_not]
      omega
    exact inRange_eq_none hrange _
  · exact inRange_eq_none (decide_eq_false (by omega)) _
  · exact inRange_eq_none (decide_eq_false (by omega)) _

end Sys2Proof.Machine

namespace Sys2Proof.Machine

/-! ## The words and the outcomes of the quantizer commands (30_encoding.md R71, 40_quantizer.md R100 to R106) -/

/-- The word of a command with a three-byte operand is the sum of its shifted fields (R71), and decodes to the command. -/
theorem decodeWord_of_fields {i : Instr} {a b c : Byte} (hoperand : operandOf i = a ++ b ++ c) :
    decodeWord (BitVec.ofNat 32 ((opcodeOf i).toNat * 2 ^ 24 + a.toNat * 2 ^ 16 + b.toNat * 2 ^ 8 + c.toNat)) =
      .command i := by
  have hsum : (opcodeOf i).toNat * 2 ^ 24 + a.toNat * 2 ^ 16 + b.toNat * 2 ^ 8 + c.toNat = (encode i).toNat := by
    rw [encode_toNat, hoperand, bytes_toNat]
    omega
  rw [hsum, BitVec.ofNat_toNat, BitVec.setWidth_eq, decodeWord_encode]

/-- The command completes in s, RESULT reads n, and nothing else changes (R25). -/
def CompletesWith (i : Instr) (s : State) (n : Nat) : Prop :=
  ∃ t, exec i s = .next t ∧ (readReg .result t).toNat = n ∧ KeepsRegisters [.result] s t ∧ KeepsHostSide s t

/-- A command that writes a number of at most 8 bits to RESULT completes with that number. -/
theorem completesWith_of_setResult {i : Instr} {s : State} {n : Nat}
    (h : exec i s = .next (s.setResult (BitVec.ofNat 16 n))) (hn : n ≤ 255) : CompletesWith i s n :=
  ⟨_, h, readReg_setResult s (by omega), fun r hr => readReg_setResult_ne s _ (by simpa using hr), exec_hostSide h⟩

/-- The state a command completes in is the one exec answers. -/
theorem CompletesWith.result_of_exec {i : Instr} {s t : State} {n : Nat} (h : CompletesWith i s n)
    (ht : exec i s = .next t) : (readReg .result t).toNat = n := by
  obtain ⟨u, hu, hresult, _⟩ := h
  cases hu.symm.trans ht
  exact hresult

theorem luma_completesWith (r g b : Byte) (s : State) :
    CompletesWith (.luma r g b) s (lumaOf r.toNat g.toNat b.toNat) :=
  completesWith_of_setResult rfl (lumaOf_le (byte_le r) (byte_le g) (byte_le b))

theorem sat_completesWith (r g b : Byte) (s : State) : CompletesWith (.sat r g b) s (satOf r.toNat g.toNat b.toNat) :=
  completesWith_of_setResult rfl (satOf_le _ _ _)

theorem qgrey_completesWith (y l : Byte) (s : State) : CompletesWith (.qgrey y l) s (quantizeGrey y.toNat l.toNat) :=
  completesWith_of_setResult rfl (quantizeGrey_bounds _ (byte_le y)).2

/-- QCOLOR's threshold is what THRESH reads as it executes (R106, R212). -/
theorem qcolor_completesWith (r g b : Byte) (s : State) :
    CompletesWith (.qcolor r g b) s (quantizeColor r.toNat g.toNat b.toNat (readReg .thresh s).toNat) := by
  rw [readReg_thresh_toNat]
  exact completesWith_of_setResult rfl (quantizeColor_bounds _ (byte_le r) (byte_le g) (byte_le b)).2

/-! ## Luma (40_quantizer.md R100, R101) -/

theorem lumaOf_grey (k : Nat) : lumaOf k k k = k := by
  unfold lumaOf
  omega

/-- The integer formula is the floor of the weighted sum in exact decimals (R101). -/
theorem lumaOf_eq_floor (r g b : Nat) : (lumaOf r g b : ℤ) = ⌊(0.2126 : ℚ) * r + 0.7152 * g + 0.0722 * b⌋ := by
  have hsum : (0.2126 : ℚ) * r + 0.7152 * g + 0.0722 * b =
      ((2126 * r + 7152 * g + 722 * b : ℕ) : ℚ) / (10000 : ℕ) := by
    push_cast
    ring
  rw [hsum, Rat.floor_natCast_div_natCast, lumaOf]
  norm_cast

/-- Settles O13: the decimals over 10000 are the integer weights. -/
theorem lumaIsTheExactWeightedSum : Obligations.LumaIsTheExactWeightedSum :=
  ⟨lumaOf_eq_floor, fun r g b => lumaOf_le (byte_le r) (byte_le g) (byte_le b), lumaOf_grey⟩

/-- Settles O12: the word is LUMA's encoding, and LUMA completes with the luma. -/
theorem lumaResult : Obligations.LumaResult := by
  intro r g b s
  obtain ⟨t, ht, hresult, hkeeps⟩ := luma_completesWith r g b s
  refine ⟨decodeWord_of_fields (i := .luma r g b) rfl, t, ht, hresult, ?_, hkeeps⟩
  rw [hresult]
  exact lumaOf_le (byte_le r) (byte_le g) (byte_le b)

/-! ## Saturation (40_quantizer.md R102, R103) -/

/-- The saturation from the largest and the smallest channel (R103). -/
theorem satOf_eq {r g b mx mn : Nat} (hmx : mx = max r (max g b)) (hmn : mn = min r (min g b)) :
    satOf r g b = if mx = 0 then 0 else (mx - mn) * 255 / mx := by
  rw [hmx, hmn, satOf]

/-- For 8-bit channels a spread of at least 1 is not rounded down to 0 (R102). -/
theorem satOf_eq_zero_iff {r g b : Nat} (hr : r ≤ 255) (hg : g ≤ 255) (hb : b ≤ 255) :
    satOf r g b = 0 ↔ r = g ∧ g = b := by
  rw [satOf_eq rfl rfl]
  split
  · omega
  · rw [Nat.div_eq_zero_iff]
    omega

/-- The spread is the whole maximum exactly when the minimum is 0 (R102). -/
theorem satOf_eq_255_iff (r g b : Nat) :
    satOf r g b = 255 ↔ (r = 0 ∨ g = 0 ∨ b = 0) ∧ ¬(r = 0 ∧ g = 0 ∧ b = 0) := by
  have hreach : satOf r g b = 255 ↔ 255 ≤ satOf r g b := by
    have := satOf_le r g b
    omega
  rw [hreach]
  rw [satOf_eq rfl rfl]
  split
  · omega
  · rw [Nat.le_div_iff_mul_le (by omega)]
    omega

theorem byte_eq_zero_iff (b : Byte) : b = 0 ↔ b.toNat = 0 := field_eq_iff b (by decide)

/-- Settles O15: the two extremes on the channels as numbers. -/
theorem saturationExtremes : Obligations.SaturationExtremes := by
  intro r g b
  refine ⟨satOf_le _ _ _, ?_, ?_⟩
  · rw [satOf_eq_zero_iff (byte_le r) (byte_le g) (byte_le b), BitVec.toNat_inj, BitVec.toNat_inj]
  · rw [satOf_eq_255_iff, byte_eq_zero_iff, byte_eq_zero_iff, byte_eq_zero_iff]

/-- Settles O14: the word is SAT's encoding, and SAT completes with the saturation. -/
theorem satResult : Obligations.SatResult := by
  intro r g b s
  obtain ⟨t, ht, hresult, hkeeps⟩ := sat_completesWith r g b s
  refine ⟨decodeWord_of_fields (i := .sat r g b) rfl, t, ht, fun mx mn hmx hmn => ?_, ?_, hkeeps⟩
  · rw [hresult, satOf_eq (hmx.trans (max_assoc _ _ _)) (hmn.trans (min_assoc _ _ _))]
  · rw [hresult]
    exact satOf_le _ _ _

/-! ## The grey path (40_quantizer.md R104, R105, R110) -/

/-- Settles O16: QGREY completes with the ramp's entry, and a reserved bit is the decoder's reserved-field fault. -/
theorem qgreyResult : Obligations.QgreyResult := by
  refine ⟨fun y l s => ?_, fun w s hop hreserved => ?_⟩
  · obtain ⟨t, ht, hresult, hkeeps⟩ := qgrey_completesWith y l s
    refine ⟨?_, t, ht, ?_, hkeeps⟩
    · rw [← Nat.add_zero (0x03 * 2 ^ 24)]
      exact decodeWord_of_fields (i := .qgrey y l) (a := 0) rfl
    · rintro _ _ _ rfl rfl rfl
      have hidx : greyIndex y.toNat l.toNat ≤ 25 := greyIndex_le l.toNat (byte_le y)
      refine ⟨Nat.le_sub_one_of_lt (scaledLuma_lt (byte_le y) (by omega)), hidx, ?_⟩
      rw [hresult, quantizeGrey, greyEntry_eq hidx]
      rfl
  · have hd : decodeWord w = .reservedField := (decodeWord_rejects_iff w).2.2 (.inl ⟨hop, hreserved⟩)
    obtain ⟨hwindow, hreset, hpending, hanswers, _⟩ := raiseFault_rest .reservedField w s
    exact ⟨_, executeWord_reservedField hd s, raiseFault_recordsFault .reservedField w s, hwindow, hreset, hpending,
      hanswers⟩

theorem exec_qgrey (y l : Byte) (s : State) :
    exec (.qgrey y l) s = .next (s.setResult (BitVec.ofNat 16 (quantizeGrey y.toNat l.toNat))) := rfl

/-- The quantized grey sees its level count only after the clamp (R105). -/
theorem quantizeGrey_congr {l m : Nat} (h : clampLevels l = clampLevels m) (y : Nat) :
    quantizeGrey y l = quantizeGrey y m := by
  simp only [quantizeGrey, greyIndex, h]

/-- QGREY sees its level count only after the clamp (R105). -/
theorem exec_qgrey_congr {l m : Byte} (h : clampLevels l.toNat = clampLevels m.toNat) (y : Byte) (s : State) :
    exec (.qgrey y l) s = exec (.qgrey y m) s := by
  rw [exec_qgrey, exec_qgrey, quantizeGrey_congr h]

theorem clampLevels_of_le {l : Nat} (h : l ≤ 2) : clampLevels l = 2 := by
  unfold clampLevels
  omega

theorem clampLevels_of_ge {l : Nat} (h : 26 ≤ l) : clampLevels l = 26 := by
  unfold clampLevels
  omega

/-- Luma 0 is the ramp's first entry at every level count (R104). -/
theorem quantizeGrey_zero (l : Nat) : quantizeGrey 0 l = 16 := by
  have hidx : greyIndex 0 l = 0 := by simp [greyIndex, scaledLuma]
  rw [quantizeGrey, hidx]
  rfl

/-- Luma 255 scales to the last level (R105). -/
theorem scaledLuma_255 {levels : Nat} (hpos : 1 ≤ levels) (hle : levels ≤ 256) : scaledLuma 255 levels = levels - 1 := by
  unfold scaledLuma
  omega

/-- The last level is the ramp's last entry at every level count (R104). -/
theorem quantizeGrey_255 (l : Nat) : quantizeGrey 255 l = 231 := by
  obtain ⟨hlow, hhigh⟩ := clampLevels_bounds l
  have hidx : greyIndex 255 l = 25 := by
    rw [greyIndex, scaledLuma_255 (by omega) (by omega)]
    split
    · omega
    · exact Nat.mul_div_cancel_left 25 (by omega)
  rw [quantizeGrey, hidx]
  rfl

/-- Settles O17: the clamp at its two ends, and the ends of the scale. -/
theorem qgreyClampsAndEnds : Obligations.QgreyClampsAndEnds := by
  refine ⟨fun y l s h => exec_qgrey_congr (clampLevels_of_le h) y s,
    fun y l s h => exec_qgrey_congr (clampLevels_of_ge h) y s, fun l s => ⟨?_, ?_⟩,
    fun y l => quantizeGrey_mem_romGrey _ (byte_le y)⟩
  · rw [exec_qgrey, show (0 : Byte).toNat = 0 from rfl, quantizeGrey_zero]
    rfl
  · rw [exec_qgrey, show (255 : Byte).toNat = 255 from rfl, quantizeGrey_255]
    rfl

/-- Scaling to a power of two of levels shifts the rest of the 8 bits out (R110). -/
theorem scaledLuma_two_pow (y : Byte) {k j : Nat} (h : k + j = 8) : scaledLuma y.toNat (2 ^ k) = (y >>> j).toNat := by
  have h256 : 256 = 2 ^ j * 2 ^ k := by
    rw [← pow_add, Nat.add_comm, h]
    rfl
  rw [scaledLuma, h256, Nat.mul_div_mul_right _ _ (by positivity), BitVec.toNat_ushiftRight,
    Nat.shiftRight_eq_div_pow]

/-- Settles O18: each level count is a power of two. -/
theorem scaledLumaIsAShift : Obligations.ScaledLumaIsAShift := fun y =>
  ⟨scaledLuma_two_pow y (k := 4) rfl, scaledLuma_two_pow y (k := 3) rfl, scaledLuma_two_pow y (k := 2) rfl,
    scaledLuma_two_pow y (k := 1) rfl⟩

/-! ## The cube coordinate (40_quantizer.md R107) -/

/-- Coordinate i is reached exactly from the midpoint of stops i - 1 and i on (R107). -/
theorem le_cubeCoord_iff {c i : Nat} (h1 : 1 ≤ i) (h5 : i ≤ 5) :
    i ≤ cubeCoord c ↔ romStop.getD (i - 1) 0 + romStop.getD i 0 ≤ 2 * c := by
  have hsum : romStop.getD (i - 1) 0 + romStop.getD i 0 =
      if i = 1 then 95 else if i = 2 then 230 else if i = 3 then 310 else if i = 4 then 390 else 470 := by
    interval_cases i <;> rfl
  rw [cubeCoord_eq, hsum]
  split_ifs <;> omega

/-- The stops rise (R33). -/
theorem romStop_strictMonoOn : StrictMonoOn (fun i => romStop.getD i 0) (Set.Iic 5) := by
  have h : ∀ j ≤ 5, ∀ i < j, romStop.getD i 0 < romStop.getD j 0 := by decide
  exact fun i _ j hj hij => h j hj i hij

/-- A stop's coordinate is its place (R107). -/
theorem cubeCoord_romStop {i : Nat} (hi : i ≤ 5) : cubeCoord (romStop.getD i 0) = i := by
  have h : ∀ i ≤ 5, cubeCoord (romStop.getD i 0) = i := by decide
  exact h i hi

/-- A value from the midpoint of two numbers on is at least as near to the higher one. -/
theorem abs_sub_le_of_midpoint_le {a b c : ℤ} (hab : a ≤ b) (hmid : a + b ≤ 2 * c) : |c - b| ≤ |c - a| :=
  (abs_le.2 ⟨by omega, by omega⟩).trans (le_abs_self (c - a))

/-- A value below the midpoint of two numbers is nearer to the lower one. -/
theorem abs_sub_lt_of_lt_midpoint {a b c : ℤ} (hab : a < b) (hmid : 2 * c < a + b) : |c - a| < |c - b| :=
  (abs_lt.2 ⟨by omega, by omega⟩).trans_le (neg_le_abs (c - b))

/-- No stop at or below the coordinate is nearer: the value is from their midpoint on (R107). -/
theorem romStop_nearest_of_le {c j : Nat} (hj : j ≤ cubeCoord c) :
    |(c : ℤ) - romStop.getD (cubeCoord c) 0| ≤ |(c : ℤ) - romStop.getD j 0| := by
  rcases hj.eq_or_lt with rfl | hlt
  · exact le_rfl
  have hcoord := cubeCoord_le c
  have hmid := (le_cubeCoord_iff (by omega) hcoord).1 le_rfl
  have hbelow : romStop.getD j 0 ≤ romStop.getD (cubeCoord c - 1) 0 :=
    romStop_strictMonoOn.monotoneOn (Set.mem_Iic.2 (by omega)) (Set.mem_Iic.2 (by omega)) (by omega)
  have hrise : romStop.getD j 0 < romStop.getD (cubeCoord c) 0 := romStop_strictMonoOn (hj.trans hcoord) hcoord hlt
  exact abs_sub_le_of_midpoint_le (by omega) (by omega)

/-- Every stop above the coordinate is farther: the value is below their midpoint (R107). -/
theorem romStop_nearest_of_lt {c j : Nat} (hlt : cubeCoord c < j) (hj : j ≤ 5) :
    |(c : ℤ) - romStop.getD (cubeCoord c) 0| < |(c : ℤ) - romStop.getD j 0| := by
  have hmid := mt (le_cubeCoord_iff (c := c) (i := cubeCoord c + 1) (by omega) (by omega)).2 (by omega)
  rw [Nat.add_sub_cancel] at hmid
  have habove : romStop.getD (cubeCoord c + 1) 0 ≤ romStop.getD j 0 :=
    romStop_strictMonoOn.monotoneOn (Set.mem_Iic.2 (by omega)) hj hlt
  have hrise : romStop.getD (cubeCoord c) 0 < romStop.getD j 0 := romStop_strictMonoOn (cubeCoord_le c) hj hlt
  exact abs_sub_lt_of_lt_midpoint (by omega) (by omega)

/-- Settles O20: lower stops are no nearer, higher stops are farther, and the midpoints are those of the thresholds. -/
theorem cubeCoordIsTheNearestStop : Obligations.CubeCoordIsTheNearestStop := by
  refine ⟨fun c j hj => ?_, fun c i h1 h5 => ?_, cubeCoord_le⟩
  · rcases le_or_gt j (cubeCoord c) with hle | hlt
    · exact ⟨romStop_nearest_of_le hle, fun _ => hle⟩
    · have hfar := romStop_nearest_of_lt hlt hj
      exact ⟨hfar.le, fun heq => absurd heq hfar.ne⟩
  · rw [le_cubeCoord_iff h1 h5, div_le_iff₀ two_pos, mul_comm (c : ℚ)]
    norm_cast

/-! ## QCOLOR (40_quantizer.md R106, R109, R112, R113, R116) -/

/-- Settles O19: the word is QCOLOR's encoding, and the threshold chooses the path. -/
theorem qcolorResult : Obligations.QcolorResult := by
  intro r g b s
  obtain ⟨t, ht, hresult, hkeeps⟩ := qcolor_completesWith r g b s
  exact ⟨decodeWord_of_fields (i := .qcolor r g b) rfl, t, ht, fun h => hresult.trans (quantizeColor_of_le h),
    fun h => hresult.trans (quantizeColor_of_lt h), hkeeps⟩

/-- A grey pixel's saturation is 0, so it never exceeds the threshold (R112). -/
theorem quantizeColor_grey {k : Nat} (hk : k ≤ 255) (thr : Nat) : quantizeColor k k k thr = greyEntry (26 * k / 256) := by
  have hsat : satOf k k k = 0 := (satOf_eq_zero_iff hk hk hk).2 ⟨rfl, rfl⟩
  rw [quantizeColor_of_le (by omega), lumaOf_grey, Nat.mul_comm]
  rfl

/-- Settles O22: the grey path with the pixel's own value as luma. -/
theorem greyPixelsTakeTheGreyPath : Obligations.GreyPixelsTakeTheGreyPath := by
  intro k s
  obtain ⟨t, ht, hresult, _⟩ := qcolor_completesWith k k k s
  exact ⟨t, ht, hresult.trans (quantizeColor_grey (byte_le k) _)⟩

/-- A stop is a channel value (R41). -/
theorem romStop_toNat {i : Nat} (hi : i ≤ 5) : (BitVec.ofNat 8 (romStop.getD i 0)).toNat = romStop.getD i 0 := by
  have h : ∀ i ≤ 5, (BitVec.ofNat 8 (romStop.getD i 0)).toNat = romStop.getD i 0 := by decide
  exact h i hi

/-- Settles O23: each channel is a stop, whose coordinate is its place. -/
theorem cubeColoursKeepTheirIndex : Obligations.CubeColoursKeepTheirIndex := by
  intro i j k s hi hj hk hthr
  obtain ⟨t, ht, hresult, _⟩ := qcolor_completesWith (BitVec.ofNat 8 (romStop.getD i 0))
    (BitVec.ofNat 8 (romStop.getD j 0)) (BitVec.ofNat 8 (romStop.getD k 0)) s
  refine ⟨t, ht, ?_⟩
  rw [hresult, romStop_toNat hi, romStop_toNat hj, romStop_toNat hk, quantizeColor_of_lt hthr, cubeIndex,
    cubeCoord_romStop hi, cubeCoord_romStop hj, cubeCoord_romStop hk]

/-- Two completions of a command with one number leave the same RESULT. -/
theorem CompletesWith.result_congr {i : Instr} {s s' t t' : State} {n : Nat} (h : CompletesWith i s n)
    (h' : CompletesWith i s' n) (ht : exec i s = .next t) (ht' : exec i s' = .next t') :
    readReg .result t = readReg .result t' :=
  BitVec.eq_of_toNat_eq ((h.result_of_exec ht).trans (h'.result_of_exec ht').symm)

/-- Settles O24: the number a command completes with is a function of its operands, and for QCOLOR of THRESH. -/
theorem quantizerReadsOnlyThresh : Obligations.QuantizerReadsOnlyThresh := by
  rintro _ s s' t t' ⟨r, g, b, rfl | rfl | rfl | ⟨rfl, hthr⟩⟩
  · exact (luma_completesWith r g b s).result_congr (luma_completesWith r g b s')
  · exact (sat_completesWith r g b s).result_congr (sat_completesWith r g b s')
  · exact (qgrey_completesWith g b s).result_congr (qgrey_completesWith g b s')
  · have h := qcolor_completesWith r g b s
    rw [hthr] at h
    exact h.result_congr (qcolor_completesWith r g b s')

/-! ## The threshold's write and the command after it (70_reset_and_hazards.md R212) -/

/-- THRESH reads the byte written to it (R28, R38). -/
theorem readReg_thresh_writeReg (v : Byte) (s : State) :
    (readReg .thresh (writeReg .thresh (v.zeroExtend 32) s)).toNat = v.toNat := by
  have hv := byte_le v
  rw [readReg_thresh_toNat]
  show ((v.zeroExtend 32).extractLsb' 0 8).toNat = v.toNat
  simp only [BitVec.extractLsb'_toNat, BitVec.truncate_eq_setWidth, BitVec.toNat_setWidth, Nat.shiftRight_zero]
  omega

/-- Settles O53: the first step stores the threshold, the second executes QCOLOR in the state it leaves. -/
theorem thresholdIsSampledWhenQcolorExecutes : Obligations.ThresholdIsSampledWhenQcolorExecutes := by
  intro s v r g b rest hreset hpending
  have hwrite : step s = .next (writeReg .thresh (v.zeroExtend 32) (s.setPending s.pending.tail)) :=
    (step_presents (off := regOffset .thresh) ⟨by decide, hreset, by rw [hpending]; rfl⟩).trans
      (accessAt_write _ _ (by decide) rfl)
  obtain ⟨hwindow, hline, hlist, _⟩ := writeReg_hostSide .thresh (v.zeroExtend 32) (s.setPending s.pending.tail)
  have hthresh := readReg_thresh_writeReg v (s.setPending s.pending.tail)
  generalize writeReg .thresh (v.zeroExtend 32) (s.setPending s.pending.tail) = u at *
  rw [State.setPending_pending, hpending, List.tail_cons] at hlist
  have hcommand : PresentsCommand u (encode (.qcolor r g b)) :=
    ⟨by decide, hline.trans hreset, by rw [hlist, base_congr (s := s) hwindow]; rfl⟩
  have hstep : step u = exec (.qcolor r g b) (u.setPending u.pending.tail) := by
    rw [step_presents hcommand, accessAt_command, executeWord_command _ (decodeWord_encode _)]
  obtain ⟨t, ht, hresult, _, _, _, htaken, _⟩ := qcolor_completesWith r g b (u.setPending u.pending.tail)
  refine ⟨t, ?_, ?_, ?_⟩
  · rw [run_of_next hwrite, run_of_next (hstep.trans ht), run_none]
  · rw [hresult, readReg_setPending, hthresh]
  · rw [htaken, State.setPending_pending, hlist, List.tail_cons]

/-! ## Intermediates (40_quantizer.md R114, 41_geometry.md R150) -/

/-- The two products of QGREY, and its divisor (R114). -/
theorem qgreyIntermediates_le {y : Nat} (l : Nat) (hy : y ≤ 255) :
    y * clampLevels l ≤ 6630 ∧ scaledLuma y (clampLevels l) * 25 ≤ 625 ∧ 1 ≤ clampLevels l - 1 := by
  obtain ⟨hlow, hhigh⟩ := clampLevels_bounds l
  have hscaled := scaledLuma_lt (l := clampLevels l) hy (by omega)
  exact ⟨Nat.mul_le_mul hy hhigh, by omega, by omega⟩

/-- The products of 32-bit A with 16-bit dimensions (R150). -/
theorem cropProducts_lt (s : State) : cropLhs (aspectA s) (gridCols s) (srcHeight s) < 2 ^ 64 ∧
    cropRhs (gridRows s) (srcWidth s) < 2 ^ 48 ∧ srcWidth s * 65536 * gridRows s < 2 ^ 48 ∧
    aspectA s * gridCols s < 2 ^ 48 ∧ 65536 * gridRows s < 2 ^ 32 := by
  have hrows := gridRows_lt s
  have hwidth := srcWidth_lt s
  have haspect : aspectA s * gridCols s < 2 ^ 32 * 2 ^ 16 := Nat.mul_lt_mul'' s.aspect.isLt (gridCols_lt s)
  have hframe : 65536 * gridRows s * srcWidth s < 2 ^ 32 * 2 ^ 16 := Nat.mul_lt_mul'' (by omega) hwidth
  have hswap : srcWidth s * 65536 * gridRows s = 65536 * gridRows s * srcWidth s := by ring
  exact ⟨Nat.mul_lt_mul'' (c := 2 ^ 48) (d := 2 ^ 16) haspect (srcHeight_lt s), hframe, hswap ▸ hframe, haspect,
    by omega⟩

/-- The divisors of the crop are positive once no input is zero (R150). -/
theorem cropDivisors_pos {s : State} (h : cropDegenerate s = false) :
    0 < aspectA s * gridCols s ∧ 0 < 65536 * gridRows s := by
  obtain ⟨_, _, hcols, hrows, haspect⟩ := (cropDegenerate_eq_false s).1 h
  exact ⟨Nat.mul_pos (by omega) (by omega), by omega⟩

/-- Settles O58: unit by unit, luma, saturation, grey path, crop and mirror. -/
theorem intermediatesFit : Obligations.IntermediatesFit := by
  refine ⟨fun r g b => ?_, fun r g b mx mn hmx hmn => ?_, fun y l => qgreyIntermediates_le _ (byte_le y), fun s => ?_,
    fun col s hcol => ?_⟩
  · have hr := byte_le r
    have hg := byte_le g
    have hb := byte_le b
    omega
  · have hmax : mx ≤ 255 := hmx ▸ max_le (byte_le r) (max_le (byte_le g) (byte_le b))
    have hsat := satOf_eq hmx hmn
    refine ⟨by omega, by omega, fun hzero => ?_, fun hpos => ⟨by omega, ?_⟩⟩
    · rw [hsat, if_pos hzero]
    · rw [hsat, if_neg hpos]
  · obtain ⟨hlhs, hrhs, hwidth, haspect, hrows⟩ := cropProducts_lt s
    exact ⟨hlhs, hrhs, hwidth, haspect, hrows, cropDivisors_pos⟩
  · omega

end Sys2Proof.Machine

namespace Sys2Proof.Machine

/-! ## The words and the faults of CROP and MIRROR (30_encoding.md R71, R74, 41_geometry.md R145, R149) -/

/-- MIRROR's word is its opcode and its column side by side (R71, format COL). -/
theorem encode_mirror (col : Half) : encode (.mirror col) = BitVec.ofNat 32 (0x06 * 2 ^ 24 + col.toNat) := by
  have hnumber : (encode (.mirror col)).toNat = 0x06 * 2 ^ 24 + col.toNat := by
    rw [encode_toNat, operandOf, append_toNat]
    simp [opcodeOf]
  rw [← hnumber, BitVec.ofNat_toNat, BitVec.setWidth_eq]

/-- A word rejected for its reserved bits records cause 2 with the word, and nothing else happens (R74, R172). -/
theorem executeWord_records_reservedField {w : Word} (h : decodeWord w = .reservedField) (s : State) :
    ∃ t, executeWord w s = .next t ∧ RecordsFault 2 w s t ∧ KeepsHostSide s t :=
  ⟨_, executeWord_reservedField h s, raiseFault_recordsFault .reservedField w s,
    executeWord_hostSide (executeWord_reservedField h s)⟩

/-- A command that answers by recording a fault records it with its cause's code, and nothing else happens (R172). -/
theorem exec_records_fault {i : Instr} {s : State} {c : FaultCause} {info : Word}
    (h : exec i s = .next (raiseFault c info s)) :
    ∃ t, exec i s = .next t ∧ RecordsFault (causeCode (some c)).toNat info s t ∧ KeepsHostSide s t :=
  ⟨_, h, raiseFault_recordsFault c info s, exec_hostSide h⟩

/-! ## The inputs of CROP as the registers read (41_geometry.md R140) -/

theorem srcWidth_eq_readReg (s : State) : srcWidth s = (readReg .srcdim s).toNat % 65536 := lowHalf_toNat s.srcdim
theorem srcHeight_eq_readReg (s : State) : srcHeight s = (readReg .srcdim s).toNat / 65536 := highHalf_toNat s.srcdim
theorem gridCols_eq_readReg (s : State) : gridCols s = (readReg .griddim s).toNat % 65536 := lowHalf_toNat s.griddim
theorem gridRows_eq_readReg (s : State) : gridRows s = (readReg .griddim s).toNat / 65536 := highHalf_toNat s.griddim
theorem aspectA_eq_readReg (s : State) : aspectA s = (readReg .aspect s).toNat := rfl

/-! ## The crop size, case by case (41_geometry.md R142) -/

section
variable {sw sh gc gr a : Nat}

theorem cropSize_of_wider (h : cropRhs gr sw < cropLhs a gc sh) :
    cropSize sw sh gc gr a = (sw, sw * 65536 * gr / (a * gc)) := if_pos h

theorem cropSize_of_narrower (h : cropLhs a gc sh < cropRhs gr sw) :
    cropSize sw sh gc gr a = (cropLhs a gc sh / (65536 * gr), sh) := by
  rw [cropSize, if_neg h.not_gt, if_pos h]

theorem cropSize_of_eq (h : cropLhs a gc sh = cropRhs gr sw) : cropSize sw sh gc gr a = (sw, sh) := by
  rw [cropSize, if_neg h.not_gt, if_neg h.not_lt]

end

/-- A crop keeps one dimension of the source (R147). -/
theorem cropSize_keeps_a_dimension (sw sh gc gr a : Nat) :
    (cropSize sw sh gc gr a).1 = sw ∨ (cropSize sw sh gc gr a).2 = sh := by
  rcases cropSize_cases sw sh gc gr a with ⟨_, e⟩ | ⟨_, e⟩ | ⟨_, e⟩ <;> rw [e]
  · exact .inl rfl
  · exact .inr rfl
  · exact .inl rfl

/-! ## The crop in exact rational arithmetic (41_geometry.md R141, R142) -/

section
variable {SW SH GC GR A : Nat}

/-- The effective aspect as one fraction of natural numbers (R141). -/
theorem effectiveAspect_eq (GC GR A : Nat) :
    (A : ℚ) / 65536 * GC / GR = ((A * GC : ℕ) : ℚ) / ((65536 * GR : ℕ) : ℚ) := by
  push_cast
  rw [div_mul_eq_mul_div, div_div]

/-- Cross-multiplying by SH and 65536 * GR makes the products of R141 of the two aspects. -/
theorem sourceAspect_lt_iff (hSH : 0 < SH) (hGR : 0 < GR) :
    (SW : ℚ) / SH < (A : ℚ) / 65536 * GC / GR ↔ cropRhs GR SW < cropLhs A GC SH := by
  rw [effectiveAspect_eq, div_lt_div_iff₀ (by positivity) (by positivity), cropRhs, cropLhs, mul_comm (SW : ℚ)]
  norm_cast

theorem lt_sourceAspect_iff (hSH : 0 < SH) (hGR : 0 < GR) :
    (A : ℚ) / 65536 * GC / GR < (SW : ℚ) / SH ↔ cropLhs A GC SH < cropRhs GR SW := by
  rw [effectiveAspect_eq, div_lt_div_iff₀ (by positivity) (by positivity), cropRhs, cropLhs, mul_comm (SW : ℚ)]
  norm_cast

theorem sourceAspect_eq_iff (hSH : 0 < SH) (hGR : 0 < GR) :
    (SW : ℚ) / SH = (A : ℚ) / 65536 * GC / GR ↔ cropRhs GR SW = cropLhs A GC SH := by
  rw [effectiveAspect_eq, div_eq_div_iff (by positivity) (by positivity), cropRhs, cropLhs, mul_comm (SW : ℚ)]
  norm_cast

end

/-- Settles O26: both comparisons by cross-multiplication. -/
theorem aspectComparisonIsExact : Obligations.AspectComparisonIsExact :=
  fun _ _ _ _ _ _ hSH _ hGR _ => ⟨sourceAspect_lt_iff hSH hGR, sourceAspect_eq_iff hSH hGR⟩

/-- The shrunk height is the floor of the source width over the effective aspect (R142). -/
theorem floor_div_effectiveAspect (SW GC GR A : Nat) :
    ⌊(SW : ℚ) / ((A : ℚ) / 65536 * GC / GR)⌋₊ = SW * 65536 * GR / (A * GC) := by
  rw [effectiveAspect_eq, div_div_eq_mul_div, ← Nat.cast_mul, Nat.floor_div_eq_div, mul_assoc]

/-- The shrunk width is the floor of the effective aspect times the source height (R142). -/
theorem floor_effectiveAspect_mul (SH GC GR A : Nat) :
    ⌊(A : ℚ) / 65536 * GC / GR * SH⌋₊ = cropLhs A GC SH / (65536 * GR) := by
  rw [effectiveAspect_eq, div_mul_eq_mul_div, ← Nat.cast_mul, Nat.floor_div_eq_div, cropLhs]

/-- Settles O27: the exact comparison picks the case of the crop size, and each quotient is a floor. -/
theorem cropSizeIsTheFloorOfTheExactQuotient : Obligations.CropSizeIsTheFloorOfTheExactQuotient := by
  rintro SW SH GC GR A _ _ hSH _ hGR _ rfl
  rw [floor_div_effectiveAspect, floor_effectiveAspect_mul]
  refine ⟨fun h => ?_, fun h => ?_, fun h => ?_⟩
  · have hwider := (sourceAspect_lt_iff hSH hGR).1 h
    exact ⟨cropSize_of_wider hwider, shrunkHeight_lt hwider⟩
  · have hnarrower := (lt_sourceAspect_iff hSH hGR).1 h
    exact ⟨cropSize_of_narrower hnarrower, shrunkWidth_lt hnarrower⟩
  · exact cropSize_of_eq ((sourceAspect_eq_iff hSH hGR).1 h.symm).symm

/-! ## What CROP leaves in the registers (41_geometry.md R143, R144, R146, R147) -/

/-- The rectangle a successful CROP leaves: its size is the crop size, its offsets half the leftover (R143, R144). -/
theorem exec_crop_fields {s t : State} (hd : cropDegenerate s = false) (h : exec .crop s = .next t) :
    cropX t = (srcWidth s - cropW t) / 2 ∧ cropY t = (srcHeight s - cropH t) / 2 ∧
    cropW t = (cropOf s).1 ∧ cropH t = (cropOf s).2 := by
  obtain rfl := Host.Outcome.next.inj ((exec_crop_eq hd).symm.trans h)
  obtain ⟨hX, hY, hW, hH⟩ := storeCrop_fields (cropOf_le s).1 (cropOf_le s).2
  exact ⟨by rw [hX, hW], by rw [hY, hH], hW, hH⟩

/-- Settles O28: half of what the crop leaves over fits beside it, and the crop size keeps one dimension. -/
theorem cropRectangleLiesInTheFrame : Obligations.CropRectangleLiesInTheFrame := by
  intro s t hSW hSH hGC hGR hA h
  obtain ⟨hX, hY, hW, hH⟩ := exec_crop_fields ((cropDegenerate_eq_false s).2 ⟨hSW, hSH, hGC, hGR, hA⟩) h
  obtain ⟨hle_width, hle_height⟩ := cropOf_le s
  have hfull : (cropOf s).1 = srcWidth s ∨ (cropOf s).2 = srcHeight s := cropSize_keeps_a_dimension _ _ _ _ _
  rw [← hW] at hle_width hfull
  rw [← hH] at hle_height hfull
  exact ⟨by omega, by omega, hle_width, hle_height, hfull⟩

/-- Settles O29: the leftover is twice its half and the odd pixel. -/
theorem cropMarginsDifferByTheOddPixel : Obligations.CropMarginsDifferByTheOddPixel := by
  intro s t hSW hSH hGC hGR hA h
  obtain ⟨hX, hY, _, _⟩ := exec_crop_fields ((cropDegenerate_eq_false s).2 ⟨hSW, hSH, hGC, hGR, hA⟩) h
  exact ⟨hX, hY, by omega, by omega⟩

/-- CROPXY and CROPWH as numbers after a crop is stored (R32, R144). -/
theorem readReg_storeCrop {w h : Nat} {s : State} (hw : w ≤ srcWidth s) (hh : h ≤ srcHeight s) :
    (readReg .cropxy (storeCrop w h s)).toNat = 65536 * ((srcHeight s - h) / 2) + (srcWidth s - w) / 2 ∧
    (readReg .cropwh (storeCrop w h s)).toNat = 65536 * h + w := by
  have hwidth := srcWidth_lt s
  have hheight := srcHeight_lt s
  exact ⟨packHalves_toNat (by unfold centreOffset; omega) (by unfold centreOffset; omega),
    packHalves_toNat (by omega) (by omega)⟩

/-- Storing a crop writes CROPXY, CROPWH and STATUS and no other register (R144). -/
theorem storeCrop_keepsRegisters (w h : Nat) (s : State) :
    KeepsRegisters [.cropxy, .cropwh, .status] s (storeCrop w h s) := fun r hr => by
  cases r with
  | status | cropxy | cropwh => simp at hr
  | _ => rfl

/-- ZCROP is bit 1 of STATUS and no other bit (R26). -/
theorem statusWord_getLsbD_of_ne_one (t : Status) (z : Bool) {k : Nat} (hk : k ≠ 1) :
    (statusWord { t with zcrop := z }).getLsbD k = (statusWord t).getLsbD k := by
  simp only [statusWord, BitVec.getLsbD_append, BitVec.getLsbD_ofBool]
  rcases Nat.lt_or_ge k 1 with h | h
  · simp [h]
  · simp [show ¬ k < 1 by omega, show k - 1 ≠ 0 by omega]

/-- ZCROP after a crop is stored (R146). -/
theorem storeCrop_zcrop (w h : Nat) (s : State) :
    (readReg .status (storeCrop w h s)).getLsbD 1 = decide (w = 0 ∨ h = 0) := by
  rw [readReg, statusWord_zcrop, storeCrop, State.setCrop_status, zcropOf, Bool.decide_or]
  rfl

/-- ERR, CAUSE and the reserved bits of STATUS stay when a crop is stored (R144). -/
theorem storeCrop_status_of_ne_one (w h : Nat) (s : State) {k : Nat} (hk : k ≠ 1) :
    (readReg .status (storeCrop w h s)).getLsbD k = (readReg .status s).getLsbD k :=
  statusWord_getLsbD_of_ne_one s.status (zcropOf w h) hk

/-- Settles O25: the comparison of the products gives the size CROP stores; a zero input and a reserved bit are the two
faults. -/
theorem cropResult : Obligations.CropResult := by
  refine ⟨decodeWord_encode .crop, ?_, fun s hzero => ?_, fun w s hop hreserved => ?_⟩
  · rintro s _ _ _ _ _ W H rfl rfl rfl rfl rfl hSW hSH hGC hGR hA hwider hnarrower hequal
    simp only [← srcWidth_eq_readReg, ← srcHeight_eq_readReg, ← gridCols_eq_readReg, ← gridRows_eq_readReg,
      ← aspectA_eq_readReg] at *
    have hsize : cropOf s = (W, H) := by
      rcases lt_trichotomy (cropRhs (gridRows s) (srcWidth s)) (cropLhs (aspectA s) (gridCols s) (srcHeight s))
        with hlt | heq | hgt
      · obtain ⟨rfl, rfl⟩ := hwider hlt
        exact cropSize_of_wider hlt
      · obtain ⟨rfl, rfl⟩ := hequal heq.symm
        exact cropSize_of_eq heq.symm
      · obtain ⟨rfl, rfl⟩ := hnarrower hgt
        exact cropSize_of_narrower hgt
    have hexec := exec_crop_eq ((cropDegenerate_eq_false s).2 ⟨hSW, hSH, hGC, hGR, hA⟩)
    obtain ⟨hW, hH⟩ := cropOf_le s
    rw [hsize] at hexec hW hH
    obtain ⟨hxy, hwh⟩ := readReg_storeCrop hW hH
    exact ⟨_, hexec, hxy, hwh, storeCrop_zcrop W H s, fun k hk => storeCrop_status_of_ne_one W H s hk,
      storeCrop_keepsRegisters W H s, exec_hostSide hexec⟩
  · simp only [← srcWidth_eq_readReg, ← srcHeight_eq_readReg, ← gridCols_eq_readReg, ← gridRows_eq_readReg,
      ← aspectA_eq_readReg] at hzero
    exact exec_records_fault (exec_crop_degenerate ((cropDegenerate_eq_true s).2 hzero))
  · exact executeWord_records_reservedField ((decodeWord_rejects_iff w).2.2 (.inr (.inl ⟨hop, hreserved⟩))) s

/-! ## MIRROR (41_geometry.md R148, R149) -/

/-- A MIRROR below GC completes with the mirrored column (R148). -/
theorem mirror_completesWith {col : Half} {s : State} (h : col.toNat < gridCols s) :
    CompletesWith (.mirror col) s (gridCols s - 1 - col.toNat) := by
  have hcols := gridCols_lt s
  have hexec := exec_mirror_eq h
  exact ⟨_, hexec, readReg_setResult s (by omega), fun r hr => readReg_setResult_ne s _ (by simpa using hr),
    exec_hostSide hexec⟩

/-- Settles O30: MIRROR completes below GC; a column at or above GC and a reserved bit are the two faults. -/
theorem mirrorResult : Obligations.MirrorResult := by
  refine ⟨fun col s => ?_, fun w s hop hreserved => ?_⟩
  · rw [← gridCols_eq_readReg, ← encode_mirror]
    exact ⟨decodeWord_encode _, mirror_completesWith, fun h => exec_records_fault (exec_mirror_range h)⟩
  · exact executeWord_records_reservedField ((decodeWord_rejects_iff w).2.2 (.inr (.inr ⟨hop, hreserved⟩))) s

/-- Settles O31: GC stays, GC - 1 - COL is below it, and subtracting twice gives COL. -/
theorem mirroringTwiceReturnsTheColumn : Obligations.MirroringTwiceReturnsTheColumn := by
  intro col s hcol
  obtain ⟨t, ht, hresult, hkeeps, _⟩ := mirror_completesWith hcol
  have hcols : gridCols t = gridCols s := by
    rw [gridCols_eq_readReg, gridCols_eq_readReg, hkeeps .griddim (by decide)]
  have hback : (lowHalf (readReg .result t)).toNat = gridCols s - 1 - col.toNat := by
    have hlt := gridCols_lt s
    rw [lowHalf_toNat, hresult]
    omega
  have hin : (lowHalf (readReg .result t)).toNat < gridCols t := by omega
  obtain ⟨u, hu, htwice, _⟩ := mirror_completesWith hin
  refine ⟨t, ht, u, hu, ?_⟩
  apply BitVec.eq_of_toNat_eq
  have hcolumn := col.isLt
  simp only [BitVec.truncate_eq_setWidth, BitVec.toNat_setWidth]
  omega

end Sys2Proof.Machine

namespace Sys2Proof.Machine

/-! ## Recording a fault (60_exceptions.md R172) -/

/-- Settles O34: one law of recording a fault, at each of the five causes. -/
theorem firstFaultIsKept : Obligations.FirstFaultIsKept := by
  intro info s
  refine ⟨raiseFault_recordsFault .illegalOpcode info s, raiseFault_recordsFault .reservedField info s,
    raiseFault_recordsFault .geomOperand info s, raiseFault_recordsFault .mirrorRange info s,
    raiseFault_recordsFault .busAccess info s, fun c => ?_⟩
  obtain ⟨hwindow, hreset, hpending, hanswers, _⟩ := raiseFault_rest c info s
  exact ⟨hwindow, hreset, hpending, hanswers⟩

/-! ## Completion of commands and accesses, and the one stop of a step (60_exceptions.md R173) -/

/-- A command answers a next state; the faults of CROP and MIRROR are next states too (R145, R149, R173). -/
theorem exec_completes (i : Instr) (s : State) : ∃ t, exec i s = .next t := by
  cases i with
  | luma r g b | sat r g b | qgrey y l | qcolor r g b => exact ⟨_, rfl⟩
  | crop =>
    cases hd : cropDegenerate s with
    | false => exact ⟨_, exec_crop_eq hd⟩
    | true => exact ⟨_, exec_crop_degenerate hd⟩
  | mirror col =>
    rcases Nat.lt_or_ge col.toNat (gridCols s) with hcol | hcol
    · exact ⟨_, exec_mirror_eq hcol⟩
    · exact ⟨_, exec_mirror_range hcol⟩

theorem executeWord_completes (w : Word) (s : State) : ∃ t, executeWord w s = .next t := by
  cases hd : decodeWord w with
  | command i => simpa only [executeWord_command s hd] using exec_completes i s
  | illegalOpcode => exact ⟨_, executeWord_illegalOpcode hd s⟩
  | reservedField => exact ⟨_, executeWord_reservedField hd s⟩

theorem legalWrite_completes (r : Reg) (w : Word) (s : State) : ∃ t, legalWrite r w s = .next t := by
  cases r with
  | cmd => exact executeWord_completes w s
  | _ => exact ⟨_, rfl⟩

theorem accessAt_completes (off : Nat) (x : Transfer) (s : State) : ∃ t, accessAt off x s = .next t := by
  cases hl : legalReg off x with
  | none => exact ⟨_, accessAt_illegal hl⟩
  | some r =>
    cases x with
    | read n => exact ⟨s.answer (.word (readReg r s)), by simp only [accessAt, hl]⟩
    | write d => simpa only [accessAt, hl] using legalWrite_completes r (dataWord d) s

/-- A step that takes the release of reset (R203). -/
theorem step_releaseReset {s : State} (hp : s.pending.head? = some .releaseReset) :
    step s = .next ((s.setPending s.pending.tail).setInReset false) := by
  obtain ⟨rest, hl⟩ := List.head?_eq_some_iff.1 hp
  simp only [step, nextEvent, hl, hostEvent, List.tail_cons]

/-- A step that takes an access in the window while reset is asserted (R202, log entry 4). -/
theorem step_duringReset {s : State} {a : Access} {off : Nat} (hp : s.pending.head? = some (.access a))
    (ho : s.offsetOf a.addr = some off) (hr : s.inReset = true) : step s = .fault .accessDuringReset := by
  obtain ⟨rest, hl⟩ := List.head?_eq_some_iff.1 hp
  have hrest : (s.setPending rest).offsetOf a.addr = some off := (offsetOf_congr (State.setPending_window s rest) _).trans ho
  simp only [step, nextEvent, hl, hostEvent, hostAccess, hrest, State.setPending_inReset, hr, if_true]

/-- A step that takes an access goes on, unless the access is in the window while reset is asserted (R50, R52, R202). -/
theorem step_access_outcome {s : State} {a : Access} (hp : s.pending.head? = some (.access a)) :
    (∃ t, step s = .next t) ∨
      (step s = .fault .accessDuringReset ∧ s.inReset = true ∧ s.base ≤ a.addr ∧ a.addr < s.base + 64) := by
  cases ho : s.offsetOf a.addr with
  | none => exact .inl ⟨_, step_outside hp ho⟩
  | some off =>
    obtain ⟨hoff, haddr⟩ := offsetOf_eq_some.1 ho
    cases hr : s.inReset with
    | true => exact .inr ⟨step_duringReset hp ho hr, rfl, by omega, by omega⟩
    | false =>
      have hpresents : Presents s off a.transfer := ⟨hoff, hr, by rw [hp, ← haddr]⟩
      rw [step_presents hpresents]
      exact .inl (accessAt_completes off a.transfer _)

/-- Settles O11: a step is idle, a change of the reset line or an access, and only an access can stop. -/
theorem onlyAnAccessDuringResetStops : Obligations.OnlyAnAccessDuringResetStops := by
  refine ⟨exec_completes, fun s => ?_⟩
  cases hp : s.pending.head? with
  | none => exact .inl ⟨s, stepWithNothingPresentedKeepsTheState s (List.head?_eq_none_iff.1 hp)⟩
  | some e =>
    cases e with
    | assertReset => exact .inl ⟨_, step_assertReset hp⟩
    | releaseReset => exact .inl ⟨_, step_releaseReset hp⟩
    | access a =>
      rcases step_access_outcome hp with hnext | ⟨hstop, hr, hlow, hhigh⟩
      · exact .inl hnext
      · exact .inr ⟨hstop, hr, a, rfl, hlow, hhigh⟩

/-! ## The order of the checks on a write to CMD (60_exceptions.md R174) -/

/-- CROP's word with a zero input is the information of its own fault (R145). -/
theorem executeWord_crop_degenerate {w : Word} {s : State} (h : decodeWord w = .command .crop)
    (hd : cropDegenerate s = true) : executeWord w s = .next (raiseFault .geomOperand w s) := by
  rw [executeWord_command s h, exec_crop_degenerate hd, encodeOfDecode w _ h]

/-- MIRROR's word with COL at or above GC is the information of its own fault (R149). -/
theorem executeWord_mirror_range {w : Word} {col : Half} {s : State} (h : decodeWord w = .command (.mirror col))
    (hcol : gridCols s ≤ col.toNat) : executeWord w s = .next (raiseFault .mirrorRange w s) := by
  rw [executeWord_command s h, exec_mirror_range hcol, encodeOfDecode w _ h]

/-- A write of fewer than four bytes reaches no register (R53). -/
theorem legalReg_write_narrow (off : Nat) {d : BusData} (h : dataWidth d ≠ .word) : legalReg off (.write d) = none := by
  rw [legalReg, if_neg fun hlegal => h hlegal.1]

/-- Settles O36: the width of the data decides whether the access is legal, and what the word decodes to decides which
operand check, if any, is made. -/
theorem faultChecksRunInOrder : Obligations.FaultChecksRunInOrder := by
  intro s d hp
  by_cases hwidth : dataWidth d = .word
  · obtain ⟨w, rfl⟩ : ∃ w, d = .word w := by cases d <;> simp [dataWidth] at hwidth ⊢
    obtain ⟨t, ht⟩ := executeWord_completes w (s.setPending s.pending.tail)
    have hfault {c : FaultCause} (he : executeWord w (s.setPending s.pending.tail) =
        .next (raiseFault c w (s.setPending s.pending.tail))) : RecordsFault (causeCode (some c)).toNat w s t := by
      obtain rfl := Host.Outcome.next.inj (ht.symm.trans he)
      exact (raiseFault_recordsFault c w s).congr fun r => readReg_raiseFault_setPending r c w s _
    refine ⟨t, by rw [step_presents hp, accessAt_command, ht], fun h => absurd hwidth h, ?_⟩
    rintro _ ⟨⟩
    exact ⟨fun h => hfault (executeWord_illegalOpcode h _), fun h => hfault (executeWord_reservedField h _),
      fun h hd => hfault (executeWord_crop_degenerate h hd), fun col h hcol => hfault (executeWord_mirror_range h hcol)⟩
  · obtain ⟨t, ht, hrecords, _⟩ := illegalAccessFaults s 0 (.write d) hp (legalReg_write_narrow 0 hwidth)
    rw [← busInfo_eq _ hp.1] at hrecords
    refine ⟨t, ht, fun _ => hrecords, ?_⟩
    rintro w rfl
    exact absurd rfl hwidth

/-! ## The fault record along a run without reset (60_exceptions.md R172, R173) -/

/-- FAULTINFO and every bit of STATUS but ZCROP read the same in t as in s. -/
def KeepsFaultRecord (s t : State) : Prop :=
  (∀ k, k ≠ 1 → (readReg .status t).getLsbD k = (readReg .status s).getLsbD k) ∧
    readReg .faultInfo t = readReg .faultInfo s

theorem keepsFaultRecord_of_readReg {s t : State} (hstatus : readReg .status t = readReg .status s)
    (hinfo : readReg .faultInfo t = readReg .faultInfo s) : KeepsFaultRecord s t :=
  ⟨fun k _ => by rw [hstatus], hinfo⟩

/-- With ERR = 1 a later fault is not recorded (R172). -/
theorem raiseFault_keepsFaultRecord {s : State} (c : FaultCause) (info : Word)
    (herr : (readReg .status s).getLsbD 0 = true) : KeepsFaultRecord s (raiseFault c info s) := by
  obtain ⟨_, hlater, _⟩ := raiseFault_recordsFault c info s
  obtain ⟨hstatus, hinfo⟩ := hlater herr
  exact keepsFaultRecord_of_readReg hstatus hinfo

/-- With ERR = 1 a command keeps the fault record: CROP writes ZCROP alone of STATUS (R144, R172). -/
theorem exec_keepsFaultRecord {i : Instr} {s t : State} (h : exec i s = .next t)
    (herr : (readReg .status s).getLsbD 0 = true) : KeepsFaultRecord s t := by
  rcases exec_cases h with ⟨_, _, v, rfl⟩ | ⟨_, _, rfl⟩ | ⟨_, _, rfl⟩ | ⟨col, _, _, rfl⟩
  · exact keepsFaultRecord_of_readReg rfl rfl
  · exact ⟨fun k hk => storeCrop_status_of_ne_one _ _ s hk, rfl⟩
  · exact raiseFault_keepsFaultRecord _ _ herr
  · exact raiseFault_keepsFaultRecord _ _ herr

/-- With ERR = 1 a step that does not assert reset keeps the fault record (R172, R201). -/
theorem step_keepsFaultRecord {s t : State} (h : step s = .next t) (hreset : ¬ PresentsReset s)
    (herr : (readReg .status s).getLsbD 0 = true) : KeepsFaultRecord s t := by
  rcases step_registers h with ⟨hr, _⟩ | ⟨_, hk | ⟨c, info, hf⟩ | ⟨w, i, _, _, he⟩ | ⟨r, w, _, hw, _, rfl⟩⟩
  · exact absurd hr hreset
  · exact keepsFaultRecord_of_readReg (hk _) (hk _)
  · obtain ⟨hstatus, hinfo⟩ := raiseFault_keepsFaultRecord c info herr
    exact ⟨fun k hk => by rw [hf, hstatus k hk], (hf _).trans hinfo⟩
  · exact exec_keepsFaultRecord (s := s.setPending s.pending.tail) he herr
  · exact keepsFaultRecord_of_readReg (readReg_writeReg_readOnly w _ rfl hw) (readReg_writeReg_readOnly w _ rfl hw)

/-- A step without reset that ends with ERR = 0 began with ERR = 0 (R173). -/
theorem step_err_false {s t : State} (h : step s = .next t) (hreset : ¬ PresentsReset s)
    (hclean : (readReg .status t).getLsbD 0 = false) : (readReg .status s).getLsbD 0 = false := by
  by_contra herr
  obtain ⟨hstatus, _⟩ := step_keepsFaultRecord h hreset (by simpa using herr)
  exact herr ((hstatus 0 (by decide)).symm.trans hclean)

/-- A run that goes on for one step and k more went on at its first. -/
theorem run_succ_eq_next {k : Nat} {s t : State} (h : Sys2Proof.core.run (k + 1) s = .next t) :
    ∃ u, step s = .next u ∧ Sys2Proof.core.run k u = .next t := by
  rcases onlyAnAccessDuringResetStops.2 s with ⟨u, hu⟩ | ⟨hstop, _⟩
  · exact ⟨u, hu, (run_of_next hu).symm.trans h⟩
  · cases (run_of_fault hstop).symm.trans h

/-- Settles O54, by induction on the number of steps: ERR = 0 passes back from the state after the first step to the first
state, and the rest is the run from there. -/
theorem cleanStatusMeansACleanBatch : Obligations.CleanStatusMeansACleanBatch := by
  intro k
  induction k with
  | zero =>
    intro j s t hrun hclean _ hj
    obtain rfl : j = 0 := Nat.le_zero.1 hj
    exact ⟨t, hrun, hclean⟩
  | succ k ih =>
    intro j s t hrun hclean hevents hj
    obtain ⟨u, hu, hrest⟩ := run_succ_eq_next hrun
    obtain ⟨_, hpending⟩ := step_window_pending hu
    have hreset : ¬ PresentsReset s := fun hp => by
      obtain ⟨rest, hl⟩ := List.head?_eq_some_iff.1 hp
      exact hevents .assertReset (by simp [hl]) rfl
    have hevents' : ∀ e ∈ u.pending.take k, e ≠ HostEvent.assertReset := fun e he =>
      hevents e (List.mem_of_mem_tail (by rwa [List.tail_take_eq_take_tail, Nat.add_sub_cancel, ← hpending]))
    cases j with
    | zero =>
      obtain ⟨u', hu', hclean'⟩ := ih 0 u t hrest hclean hevents' (Nat.zero_le k)
      obtain rfl := Host.Outcome.next.inj ((run_none u).symm.trans hu')
      exact ⟨s, run_none s, step_err_false hu hreset hclean'⟩
    | succ j =>
      obtain ⟨v, hv, hclean'⟩ := ih j u t hrest hclean hevents' (Nat.le_of_succ_le_succ hj)
      exact ⟨v, (run_of_next hu).trans hv, hclean'⟩

end Sys2Proof.Machine

namespace Sys2Proof.Machine

/-! ## What a step keeps of the fault record and of the configuration (70_reset_and_hazards.md R201) -/

/-- STATUS[31:4] is a part of the fault record: ZCROP, which may change, lies below it (R26). -/
theorem KeepsFaultRecord.cause {s t : State} (h : KeepsFaultRecord s t) :
    (readReg .status t).toNat / 16 = (readReg .status s).toNat / 16 := by
  obtain ⟨hstatus, _⟩ := h
  have hshift : readReg .status t >>> 4 = readReg .status s >>> 4 :=
    BitVec.eq_of_getLsbD_eq fun k _ => by
      rw [BitVec.getLsbD_ushiftRight, BitVec.getLsbD_ushiftRight, hstatus (4 + k) (by omega)]
  simpa only [BitVec.toNat_ushiftRight, Nat.shiftRight_eq_div_pow] using congrArg BitVec.toNat hshift

/-- Recording a fault leaves every register the host can write (R172). -/
theorem raiseFault_keepsWritable {r : Reg} (c : FaultCause) (info : Word) (s : State) (hr : writable r = true) :
    readReg r (raiseFault c info s) = readReg r s :=
  raiseFault_readReg c info s (by rintro rfl; cases hr) (by rintro rfl; cases hr)

/-- A command leaves every register the host can write (R201). -/
theorem exec_keepsWritable {r : Reg} {i : Instr} {s t : State} (h : exec i s = .next t) (hr : writable r = true) :
    readReg r t = readReg r s := by
  rcases exec_cases h with ⟨_, _, v, rfl⟩ | ⟨_, _, rfl⟩ | ⟨_, _, rfl⟩ | ⟨col, _, _, rfl⟩
  · exact readReg_setResult_ne s v (by rintro rfl; cases hr)
  · refine storeCrop_keepsRegisters _ _ s r fun hmem => ?_
    simp only [List.mem_cons, List.not_mem_nil, or_false] at hmem
    rcases hmem with rfl | rfl | rfl <;> cases hr
  · exact raiseFault_keepsWritable _ _ s hr
  · exact raiseFault_keepsWritable _ _ s hr

/-- A step leaves a register the host can write unless it asserts reset or takes a legal write to it (R201). -/
theorem step_keepsWritable {r : Reg} {s t : State} (h : step s = .next t) (hr : writable r = true) :
    PresentsReset s ∨ (∃ w, Presents s (regOffset r) (.write (.word w))) ∨ readReg r t = readReg r s := by
  rcases step_registers h with ⟨hreset, _⟩ | ⟨_, hk | ⟨c, info, hf⟩ | ⟨w, i, _, _, he⟩ | ⟨q, w, _, _, hp, rfl⟩⟩
  · exact .inl hreset
  · exact .inr (.inr (hk r))
  · exact .inr (.inr ((hf r).trans (raiseFault_keepsWritable c info s hr)))
  · exact .inr (.inr ((exec_keepsWritable he hr).trans (readReg_setPending r s _)))
  · by_cases hq : r = q
    · exact .inr (.inl ⟨w, hq ▸ hp⟩)
    · exact .inr (.inr ((readReg_writeReg_ne w _ hq).trans (readReg_setPending r s _)))

/-! ## Reset (70_reset_and_hazards.md R200 to R203) -/

/-- A step that asserts reset leaves each register at its reset value (R200). -/
theorem step_assertReset_readReg {s t : State} (hp : PresentsReset s) (h : step s = .next t) (r : Reg) :
    readReg r t = readReg r State.reset := by
  obtain rfl := Host.Outcome.next.inj ((step_assertReset hp).symm.trans h)
  rw [readReg_setInReset, readReg_resetRegisters]

/-- Settles O50: a step keeps the fault record and the configuration but for reset and legal writes, and reset gives every
register its reset value. -/
theorem onlyResetClearsTheFaultRecord : Obligations.OnlyResetClearsTheFaultRecord := by
  intro s t h
  refine ⟨fun hreset herr => ?_, fun r hr hchange => ?_, fun hp r => step_assertReset_readReg hp h r⟩
  · have hkeep := step_keepsFaultRecord h hreset herr
    have hcause := hkeep.cause
    obtain ⟨hstatus, hinfo⟩ := hkeep
    exact ⟨(hstatus 0 (by decide)).trans herr, hcause, hinfo⟩
  · have hw : writable r = true := by rcases hr with rfl | rfl | rfl | rfl <;> rfl
    rcases step_keepsWritable h hw with hreset | hwrite | hk
    · exact .inl hreset
    · exact .inr hwrite
    · exact absurd hk hchange

/-- Settles O46: the registers after the step are those of State.reset. -/
theorem resetSetsEveryRegister : Obligations.ResetSetsEveryRegister := by
  intro s hp
  have hstep := step_assertReset hp
  refine ⟨_, hstep, ?_⟩
  simp only [step_assertReset_readReg hp hstep]
  obtain ⟨hresult, hstatus, hinfo, hthresh, hsrc, hgrid, haspect, hxy, hwh, _⟩ := stateRightAfterReset
  exact ⟨hresult, hstatus, hinfo, hthresh, hsrc, hgrid, haspect, hxy, hwh⟩

/-- Settles O48: the step takes the event and drives the line. -/
theorem releasingResetOnlyReleasesTheLine : Obligations.ReleasingResetOnlyReleasesTheLine := fun s hp =>
  ⟨_, step_releaseReset hp, fun r => (readReg_setInReset r _ _).trans (readReg_setPending r s _), rfl, rfl, rfl, rfl⟩

/-- Settles O49: the address has an offset in the window. -/
theorem accessDuringResetIsAStop : Obligations.AccessDuringResetIsAStop := by
  intro s a hr hp hlow hhigh
  have hoff : s.offsetOf a.addr = some (a.addr - s.base) := offsetOf_eq_some.2 (by omega)
  exact step_duringReset hp hoff hr

/-- Settles O56: State.reset is what resetting its registers leaves. -/
theorem resetMeetsTheInvariant : Obligations.ResetMeetsTheInvariant := resetRegisters_inv State.reset

end Sys2Proof.Machine
